-- ==== Sys2Proof/Word.lean ====
section
/-!
DEFINITION. The words of the fxms CORE and the constants the source fixes (00_scope.md R7, R8).
-/

namespace Sys2Proof

/-- A byte: a number in 0 to 255, unsigned (R8). -/
abbrev Byte := BitVec 8

/-- The width of the checksum accumulator (R7), of ACC and of EMB (R15, R16). -/
abbrev Word64 := BitVec 64

/-- The two values of the mode (30_encoding.md R53, 44_sequencer.md R95). -/
inductive Mode where
  /-- `M = 0`. -/
  | optimizeEncryption
  /-- `M = 1`. -/
  | optimizeDecryption
deriving DecidableEq, Repr

/-- Bytes of the checksum field of an envelope (R7). -/
abbrev ckBytes : Nat := 8

/-- Bytes of the mask (R7). -/
abbrev maskBytes : Nat := 16

/-- Bytes before the ciphertext; the least length of an envelope (R7). -/
abbrev hdrBytes : Nat := 24

/-- The greatest key length (R7), and the size of KEY (10_state.md R11). -/
abbrev keyMax : Nat := 256

/-- The length of a generated key (R7). -/
abbrev genkeyLen : Nat := 256

/-- Keystream bytes drawn per buffer position (R7). -/
abbrev ksBlock : Nat := 8

end Sys2Proof
end

