-- ==== Sys2Proof/Syntax.lean ====
section
/-!
DEFINITION. The eight commands of FXMS-CMD, one constructor per row of the opcode table (30_encoding.md R51).
-/

namespace Sys2Proof

/-- A command. No command carries a register, an address, a length or a datum (R56); the mode is the only immediate (R53). -/
inductive Instr where
  /-- CSUM, word `01`: 40_checksum.md R64. -/
  | csum
  /-- SHUF, word `02`: 41_permutation.md R76. -/
  | shuf
  /-- UNSHUF, word `03`: 41_permutation.md R77. -/
  | unshuf
  /-- BUILD, word `04`: 43_envelope.md R90. -/
  | build
  /-- OPEN, word `05`: 43_envelope.md R91. -/
  | openEnv
  /-- ENC m, words `06` and `16`: 44_sequencer.md R97. -/
  | enc (m : Mode)
  /-- DEC m, words `07` and `17`: 44_sequencer.md R98. -/
  | dec (m : Mode)
  /-- GENKEY, word `08`: 44_sequencer.md R96. -/
  | genkey
deriving DecidableEq, Repr

end Sys2Proof
end

