-- ==== Sys2Proof/WellFormed.lean ====
section
/-!
DEFINITION. When the three fields of a command word form a legal command (30_encoding.md R50, R52, R54, R55). An `Instr` needs no check of its
own: the mode has two values and "no mode value is illegal in ENC or DEC" (R53).
-/

namespace Sys2Proof

/-- The fields of format C (R50). -/
structure CommandFields where
  /-- Bits 7:5. -/
  rsv : BitVec 3
  /-- Bit 4. -/
  m : BitVec 1
  /-- Bits 3:0. -/
  op : BitVec 4
deriving DecidableEq, Repr

/-- Why a word is illegal, in the order of R52. -/
inductive DecodeError where
  /-- `RSV != 0` (R54). -/
  | reservedBitsSet
  /-- `OP = 0` or `OP >= 9` (R54). -/
  | operationUnassigned
  /-- `M = 1` with an OP other than ENC's and DEC's (R55). -/
  | modeNotAllowed
deriving DecidableEq, Repr

/-- RSV "must be `000`" (R50). -/
def CommandFields.reservedClear (f : CommandFields) : Bool := f.rsv == 0

/-- OP is one of 1 to 8 (R51). -/
def CommandFields.opAssigned (f : CommandFields) : Bool := decide (1 ≤ f.op.toNat ∧ f.op.toNat ≤ 8)

/-- M "must be `0` in every other command" than ENC and DEC (R50). -/
def CommandFields.modeAllowed (f : CommandFields) : Bool := f.m == 0 || f.op == 6 || f.op == 7

/-- The three checks together: the word is one of the ten legal ones. -/
def CommandFields.wellFormed (f : CommandFields) : Bool := f.reservedClear && f.opAssigned && f.modeAllowed

end Sys2Proof
end

