-- ==== Sys2Proof/Decode.lean ====
section
/-!
DEFINITION. The decoder, total on all 256 words (30_encoding.md R52); the encoder (R50, R51, R53); and the assembler's names (R57).
-/

namespace Sys2Proof

/-- The fields of a command word (R50). -/
def fieldsOf (w : BitVec 8) : CommandFields :=
  { rsv := w.extractLsb' 5 3, m := w.extractLsb' 4 1, op := w.extractLsb' 0 4 }

/-- `M = 0` is OptimizeEncryption, `M = 1` is OptimizeDecryption (R53). -/
def modeOf (m : BitVec 1) : Mode := if m = 0 then .optimizeEncryption else .optimizeDecryption

/-- The command of a legal OP (R51). -/
def commandOf (f : CommandFields) : Except DecodeError Instr :=
  match f.op.toNat with
  | 1 => .ok .csum
  | 2 => .ok .shuf
  | 3 => .ok .unshuf
  | 4 => .ok .build
  | 5 => .ok .openEnv
  | 6 => .ok (.enc (modeOf f.m))
  | 7 => .ok (.dec (modeOf f.m))
  | 8 => .ok .genkey
  | _ => .error .operationUnassigned

/-- R52, the three tests in its order, then the command. -/
def decodeFields (f : CommandFields) : Except DecodeError Instr :=
  if f.reservedClear = false then .error .reservedBitsSet
  else if f.opAssigned = false then .error .operationUnassigned
  else if f.modeAllowed = false then .error .modeNotAllowed
  else commandOf f

/-- R52: "The decoder reads nothing but `w`". -/
def decode (w : BitVec 8) : Except DecodeError Instr := decodeFields (fieldsOf w)

/-- The bit that stands for a mode (R53). -/
def modeBit : Mode → BitVec 1
  | .optimizeEncryption => 0
  | .optimizeDecryption => 1

/-- The fields of a command's word (R50, R51). -/
def encodeFields : Instr → CommandFields
  | .csum => ⟨0, 0, 1⟩
  | .shuf => ⟨0, 0, 2⟩
  | .unshuf => ⟨0, 0, 3⟩
  | .build => ⟨0, 0, 4⟩
  | .openEnv => ⟨0, 0, 5⟩
  | .enc m => ⟨0, modeBit m, 6⟩
  | .dec m => ⟨0, modeBit m, 7⟩
  | .genkey => ⟨0, 0, 8⟩

/-- A word laid out as R50 draws it: RSV, M, OP from the most significant bit down. -/
def wordOfFields (f : CommandFields) : BitVec 8 := f.rsv ++ f.m ++ f.op

/-- The word of a command. -/
def encode (i : Instr) : BitVec 8 := wordOfFields (encodeFields i)

/-- The command read from a word given as a number of the opcode table's bits. A command has 8 bits, never more (R50). -/
def decodeTableWord (nbits w : Nat) : Option Instr :=
  if nbits ≤ 8 ∧ w < 2 ^ 8 then (decode (BitVec.ofNat 8 w)).toOption else none

/-- The mode operand as R57 writes it: a number or a name. -/
def assembleMode : String → Option Mode
  | "0" => some .optimizeEncryption
  | "OE" => some .optimizeEncryption
  | "1" => some .optimizeDecryption
  | "OD" => some .optimizeDecryption
  | _ => none

/-- The command that a line of R57's assembler text names, the line given as its words (comment and spaces taken off). -/
def assemble : List String → Option Instr
  | ["CSUM"] => some .csum
  | ["SHUF"] => some .shuf
  | ["UNSHUF"] => some .unshuf
  | ["BUILD"] => some .build
  | ["OPEN"] => some .openEnv
  | ["ENC", m] => (assembleMode m).map .enc
  | ["DEC", m] => (assembleMode m).map .dec
  | ["GENKEY"] => some .genkey
  | _ => none

end Sys2Proof
end

