-- ==== Sys2Proof/Config.lean ====
section
/-!
DEFINITION. What an implementation fixes, and the free values: constants with no body, of which nothing can be proved.
-/

namespace Sys2Proof

/-- A buffer capacity with the bounds of 00_scope.md R2: `24 <= BUFCAP <= 2^LENW - 1`, LENW = 32 (R3). -/
structure BufCap where
  /-- BUFCAP in bytes. -/
  size : Nat
  /-- An envelope's header fits. -/
  atLeast : 24 ≤ size
  /-- Every length up to BUFCAP fits LEN. -/
  fits : size < 2 ^ 32
deriving DecidableEq, Repr

/-- A number of which nothing is known: the model names no capacity (log 3). -/
opaque Config.anyCapacity : Nat

/-- DESIGN CHOICE (log 3): the capacity of the machine after `State.reset`, some legal one. Statements quantify over every capacity. -/
def Config.capacity : BufCap :=
  ⟨Config.anyCapacity % (2 ^ 32 - 24) + 24, Nat.le_add_left _ _, by omega⟩

/-- PRESUMED (log 4): the default of FNV_OFFSET that R4 gives from general knowledge. -/
def Config.fnvOffsetDefault : Word64 := 0xCBF29CE484222325

/-- PRESUMED (log 4): the default of FNV_PRIME that R4 gives from general knowledge. -/
def Config.fnvPrimeDefault : Word64 := 0x00000100000001B3

/-- FREE VALUE (log 5): the keystream function KS of R5 (a function of the key's bytes and of the byte index alone), where
`Params.ksKnown` lists no byte. -/
opaque Config.keystream : List Byte → Nat → Byte

/-- FREE VALUE (log 6): what the random source delivers at draw number `n`, where `Devices.rngFeed` lists no byte (R6). -/
opaque Config.rngByte : Nat → Byte

/-- FREE VALUE (log 7): `KEY[a]` after reset number `n`, each byte any value (10_state.md R26). -/
opaque Config.keyAtReset : Nat → Nat → Byte

/-- FREE VALUE (log 7): `BUF[a]` after reset number `n`, each byte any value (10_state.md R26). -/
opaque Config.bufAtReset : Nat → Nat → Byte

/-- FREE VALUE (log 8): byte `k` of the unspecified tail that the `n`-th successful OPEN or DEC leaves (43_envelope.md R89). -/
opaque Config.tailByte : Nat → Nat → Byte

end Sys2Proof
end

