-- ==== Sys2Proof/Machine/State.lean ====
section
/-!
DEFINITION. The state of the block: the nine items of 10_state.md R10 and the model's own inputs, parameters and counters, all plain data;
the state after reset (R26); the reasons a step can stop.
-/

namespace Sys2Proof.Machine

open Sys2Proof

/-- A byte memory: the bytes written since reset, with their addresses strictly rising. An address that is not listed holds NO value of its
own yet; what it reads as is one definition per memory (`keyByte`, `bufByte`): a free byte (log 7). -/
abbrev Memory := List Host.Cell

/-- The error codes of 60_exceptions.md R105, codes 0 to 5; "Codes 6 to 15 are never produced" (10_state.md R18). -/
inductive ErrCode where
  | noError
  | invalidKeySize
  | invalidDataSize
  | keystreamInitError
  | bufferOverflow
  | illegalCommand
deriving DecidableEq, Repr

/-- The four address spaces of 20_memory.md R30. -/
inductive Space where
  | ctrl
  | keymem
  | bufmem
  | maskmem
deriving DecidableEq, Repr

/-- What comes to the block from outside, one at a time (R40). -/
inductive HostEvent where
  /-- `MemRead(space, addr, units)`. -/
  | read (space : Space) (addr units : Nat)
  /-- `MemWrite(space, addr, units, value)`; a write to CTRL register 0 is a command (R32). -/
  | write (space : Space) (addr units value : Nat)
  /-- A reset between commands (70_reset_and_hazards.md R122). -/
  | reset
  /-- A write of `word` to CMD whose command a reset abandons after it has drawn `lost` bytes from the RNG port (R123). -/
  | abandoned (word : BitVec 8) (lost : Nat)
  /-- From here on the two devices answer, or never answer (R131, log 9). -/
  | devices (rng ks : Bool)
deriving DecidableEq, Repr

/-- The answer of the host port to one access (20_memory.md R32 to R36). -/
inductive Response where
  /-- A read's value, an unsigned number. -/
  | value (v : Nat)
  /-- A write, or a command, has completed. -/
  | done
  /-- The error response of a refused access (R36). -/
  | refusedAccess
deriving DecidableEq, Repr

/-- One transaction on the RNG port or the KS port (20_memory.md R44, R45). -/
inductive PortOp where
  /-- `RNG.draw()` and the byte it delivered. -/
  | rngDraw (b : Byte)
  /-- `KS.init(key)` that succeeded. -/
  | ksInit (key : List Byte)
  /-- `KS.init` that failed (41_permutation.md R67). -/
  | ksInitFailed
  /-- `KS.next8()` and the 64-bit number it returned. -/
  | ksNext8 (v : Word64)
deriving DecidableEq, Repr

/-- The parameters of 00_scope.md R2, R4 and R5 as plain data; no step writes them (log 3, 4, 5). -/
structure Params where
  /-- BUFCAP (R2). -/
  bufcap : BufCap
  /-- FNV_OFFSET (R4). -/
  fnvOffset : Word64
  /-- FNV_PRIME (R4). -/
  fnvPrime : Word64
  /-- For some keys, the first bytes of their keystream; every other byte of KS is `Config.keystream` (R5). -/
  ksKnown : List (List Byte × List Byte)
deriving DecidableEq, Repr

/-- The host port: what is still to be served, oldest first, and the answer to what was served last (log 1, 2). -/
structure HostPort where
  pending : List HostEvent
  response : Option Response
deriving DecidableEq, Repr

/-- The two devices as the block sees them through its ports (R44 to R46; log 6, 9, 11). -/
structure Devices where
  /-- The bytes the random source delivers next; after them `Config.rngByte`. -/
  rngFeed : List Byte
  /-- How many bytes have been drawn. -/
  rngDrawn : Nat
  /-- Whether the random source answers. -/
  rngAnswers : Bool
  /-- Whether the keystream generator answers. -/
  ksAnswers : Bool
  /-- Every transaction since reset, oldest first. -/
  traffic : List PortOp
deriving DecidableEq, Repr

/-- The counters that give each free value a fresh index (log 7, 8). -/
structure FreeCounters where
  /-- How many resets there were. -/
  resets : Nat
  /-- How many OPENs and DECs ended without error. -/
  tails : Nat
deriving DecidableEq, Repr

/-- The state of the block. The first nine fields are the architectural state, "exactly the nine items" of 10_state.md R10; the last four are the
model's own. -/
@[ext]
structure State where
  /-- KEY, 256 bytes (R11). -/
  key : Memory
  /-- KLEN, 9 bits (R12). -/
  klen : BitVec 9
  /-- BUF, BUFCAP bytes (R13). -/
  buf : Memory
  /-- LEN, 32 bits (R14). -/
  len : BitVec 32
  /-- ACC, 64 bits (R15). -/
  acc : Word64
  /-- EMB, 64 bits (R16). -/
  emb : Word64
  /-- MASK, 16 bytes (R17). -/
  mask : Vector Byte 16
  /-- STATUS.ERR (R18). -/
  err : ErrCode
  /-- STATUS.OK (R18). -/
  ok : Bool
  params : Params
  host : HostPort
  dev : Devices
  free : FreeCounters
deriving DecidableEq, Repr

/-- Why the machine stops. Both: a device never answers a transaction that the command issues, which "hangs the command and with it the host port"
(70_reset_and_hazards.md R131; 93_implementation_defined.md U13: stuck). SAFE: nothing can be claimed of a run that goes on from a hang. -/
inductive Fault where
  /-- Raised by BUILD, ENC and GENKEY when the random source does not answer. Safe. -/
  | rngNeverAnswers
  /-- Raised by SHUF, UNSHUF, ENC and DEC when the keystream generator does not answer. Safe. -/
  | ksNeverAnswers
deriving DecidableEq, Repr

/-- Why an instruction has no meaning. No arm of `exec` refuses. -/
inductive Refusal where
  /-- The instruction with this mnemonic is not modelled. Raised by nothing. Safe. -/
  | notModelled (mnemonic : String)
deriving DecidableEq, Repr

/-- The state after reset (R26) of a block with the given parameters. KEY and BUF list nothing: every byte of them is free. -/
def State.resetWith (p : Params) : State :=
  { key := [], klen := 0, buf := [], len := 0, acc := 0, emb := 0, mask := Vector.replicate 16 0, err := .noError, ok := false,
    params := p,
    host := { pending := [], response := none },
    dev := { rngFeed := [], rngDrawn := 0, rngAnswers := true, ksAnswers := true, traffic := [] },
    free := { resets := 0, tails := 0 } }

/-- The parameters of the machine that runs from `State.reset`: a free capacity (log 3), R4's default constants (log 4), a free keystream (log 5). -/
def Params.default : Params :=
  { bufcap := Config.capacity, fnvOffset := Config.fnvOffsetDefault, fnvPrime := Config.fnvPrimeDefault, ksKnown := [] }

/-- The machine right after reset (R26, R122). -/
def State.reset : State := State.resetWith Params.default

end Sys2Proof.Machine
end

