-- ==== Sys2Proof/Machine/Ops.lean ====
section
/-!
DEFINITION. The named operations: byte order, byte memories, the two ports, error entry and the end of a command, reset.
-/

namespace Sys2Proof.Machine

open Sys2Proof

/-! ### Byte order (00_scope.md R8, 20_memory.md R38) -/

/-- `le64(v)`: byte `k` is `v[8k+7 : 8k]`. -/
def le64 (v : Word64) : List Byte := (List.range 8).map fun k => v.extractLsb' (8 * k) 8

/-- `b[0] + b[1]*2^8 + b[2]*2^16 + …`. -/
def leNat : List Byte → Nat
  | [] => 0
  | b :: bs => b.toNat + 2 ^ 8 * leNat bs

/-- `from_le64(b)` of an 8-byte sequence. -/
def fromLe64 (b : List Byte) : Word64 := BitVec.ofNat 64 (leNat b)

/-! ### Byte memories -/

/-- The byte listed at an address, if one is. -/
def memFind : Memory → Nat → Option Byte
  | [], _ => none
  | (b, x) :: rest, a => if b = a then some x else memFind rest a

/-- List one byte, keeping the addresses rising. -/
def memPut : Memory → Nat → Byte → Memory
  | [], a, v => [(a, v)]
  | (b, x) :: rest, a, v =>
    if a < b then (a, v) :: (b, x) :: rest
    else if a = b then (a, v) :: rest
    else (b, x) :: memPut rest a v

/-- List bytes at consecutive addresses from `base`, in ascending order. -/
def memPutAll (m : Memory) (base : Nat) : List Byte → Memory
  | [] => m
  | v :: vs => memPutAll (memPut m base v) (base + 1) vs

/-- Addresses strictly rising, from `lo` on, all below `size`. -/
def memWfFrom (lo size : Nat) : Memory → Bool
  | [] => true
  | (a, _) :: rest => decide (lo ≤ a) && decide (a < size) && memWfFrom (a + 1) size rest

/-- The canonical form of a memory of `size` bytes. -/
def memWf (size : Nat) (m : Memory) : Bool := memWfFrom 0 size m

/-- `KEY[a]` (10_state.md R11). A byte not written since reset is unspecified (R26): free. -/
def keyByte (s : State) (a : Nat) : Byte := (memFind s.key a).getD (Config.keyAtReset s.free.resets a)

/-- `BUF[a]` (10_state.md R13). A byte not written since reset is unspecified (R26): free. -/
def bufByte (s : State) (a : Nat) : Byte := (memFind s.buf a).getD (Config.bufAtReset s.free.resets a)

/-- `MASK[a]` (10_state.md R17), `a` in 0 to 15. -/
def maskByte (s : State) (a : Nat) : Byte := s.mask.toList.getD a 0

/-- `BUF[base .. base+n-1]`. -/
def bufRange (s : State) (base n : Nat) : List Byte := (List.range n).map fun i => bufByte s (base + i)

/-- `BUF[base ..] <- bytes`. -/
def writeBuf (base : Nat) (bytes : List Byte) (s : State) : State := { s with buf := memPutAll s.buf base bytes }

/-- `KEY[base ..] <- bytes`. -/
def writeKey (base : Nat) (bytes : List Byte) (s : State) : State := { s with key := memPutAll s.key base bytes }

/-- `MASK[0 .. 15]` from a list of 16 bytes. -/
def maskOf (bytes : List Byte) : Vector Byte 16 := Vector.ofFn fun i => bytes.getD i.val 0

/-- The capacity of this block (00_scope.md R2). -/
def bufcap (s : State) : Nat := s.params.bufcap.size

/-! ### The two ports (20_memory.md R44 to R46) -/

/-- The `i`-th byte (from 0) that the RNG port delivers from now on: what is fed, then free bytes (R6). -/
def rngByteAt (d : Devices) (i : Nat) : Byte := (d.rngFeed[i]?).getD (Config.rngByte (d.rngDrawn + i))

/-- The next `n` bytes of the RNG port, in the order of the draws. -/
def rngBytes (n : Nat) (d : Devices) : List Byte := (List.range n).map (rngByteAt d)

/-- The devices after `n` draws. -/
def rngAdvance (n : Nat) (d : Devices) : Devices :=
  { d with rngFeed := d.rngFeed.drop n, rngDrawn := d.rngDrawn + n }

/-- Record transactions on the ports. -/
def note (ops : List PortOp) (s : State) : State := { s with dev := { s.dev with traffic := s.dev.traffic ++ ops } }

/-- `n` draws on the RNG port. The bytes they deliver are `rngBytes n s.dev` of the state before. -/
def drawRng (n : Nat) (s : State) : State :=
  note ((rngBytes n s.dev).map .rngDraw) { s with dev := rngAdvance n s.dev }

/-- `KS(key, t)` (00_scope.md R5): a function of the key's bytes and `t` alone. -/
def ksByte (p : Params) (key : List Byte) (t : Nat) : Byte :=
  (((p.ksKnown.lookup key).getD [])[t]?).getD (Config.keystream key t)

/-! ### The end of a command -/

/-- Error entry, `raise E` (60_exceptions.md R112): STATUS is written and nothing else. There is no return from it (R113). -/
def raise (e : ErrCode) (s : State) : State := { s with err := e, ok := false }

/-- The end of a command that met no error: `STATUS.ERR <- 0`, and `STATUS.OK`, which is 1 only for an OPEN or DEC that found
`h = h'` (10_state.md R18). -/
def finish (ok : Bool) (s : State) : State := { s with err := .noError, ok := ok }

/-! ### Reset (70_reset_and_hazards.md R122) -/

/-- The block after a reset: every architectural item at its value of 10_state.md R26, KEY and BUF free anew. The host's later accesses, the
devices and the parameters are outside the block and stay. -/
def resetBlock (s : State) : State :=
  { State.resetWith s.params with
    host := { pending := s.host.pending, response := none },
    dev := { s.dev with traffic := [] },
    free := { s.free with resets := s.free.resets + 1 } }

end Sys2Proof.Machine
end

