-- ==== Sys2Proof/Machine/Operands.lean ====
section
/-!
DEFINITION. The operands, all implicit (30_encoding.md R56, 20_memory.md R48).
-/

namespace Sys2Proof.Machine

open Sys2Proof

/-- LEN as a number (10_state.md R14). -/
def lenNat (s : State) : Nat := s.len.toNat

/-- KLEN as a number in 0 to 511 (10_state.md R12). -/
def klenNat (s : State) : Nat := s.klen.toNat

/-- The key a command uses, `KEY[0 .. KLEN-1]` (10_state.md R11). -/
def keyOf (s : State) : List Byte := (List.range (klenNat s)).map (keyByte s)

/-- The content, `BUF[0 .. LEN-1]` (10_state.md R13). -/
def content (s : State) : List Byte := bufRange s 0 (lenNat s)

end Sys2Proof.Machine
end

