-- ==== Sys2Proof/Machine/Flags.lean ====
section
/-!
DEFINITION. STATUS as the host reads it (10_state.md R18), the conditions of the errors (60_exceptions.md R106 to R109) and their order (R111).
-/

namespace Sys2Proof.Machine

open Sys2Proof

/-- The numbers of the error codes (60_exceptions.md R105). -/
def errNumber : ErrCode → BitVec 4
  | .noError => 0
  | .invalidKeySize => 1
  | .invalidDataSize => 2
  | .keystreamInitError => 3
  | .bufferOverflow => 4
  | .illegalCommand => 5

/-- The 8-bit STATUS register: ERR in bits 3:0, OK in bit 4, bits 7:5 always 0 (10_state.md R18). -/
def statusWord (s : State) : BitVec 8 := (0 : BitVec 3) ++ BitVec.ofBool s.ok ++ errNumber s.err

/-- `KLEN = 0` or `KLEN > 256`: the condition of InvalidKeySize (R106) and of KeystreamInitError (R108). -/
def keySizeBad (s : State) : Bool := decide (klenNat s = 0 ∨ keyMax < klenNat s)

/-- `LEN < 24`: the condition of InvalidDataSize (R107). -/
def dataSizeBad (s : State) : Bool := decide (lenNat s < hdrBytes)

/-- `LEN > BUFCAP`: the condition of BufferOverflow for CSUM, SHUF, UNSHUF, OPEN and DEC (R109). -/
def contentOverflows (s : State) : Bool := decide (bufcap s < lenNat s)

/-- `LEN + 24 > BUFCAP`, "evaluated without wrap-around": the condition of BufferOverflow for BUILD and ENC (R109). -/
def envelopeOverflows (s : State) : Bool := decide (bufcap s < lenNat s + hdrBytes)

/-- "A command makes its checks in a fixed order and ends at the first that fails" (R111). -/
def firstError : List (Bool × ErrCode) → Option ErrCode
  | [] => none
  | (bad, e) :: rest => if bad then some e else firstError rest

/-- The check of CSUM, SHUF and UNSHUF that stands before any work. -/
def contentError (s : State) : Option ErrCode := firstError [(contentOverflows s, .bufferOverflow)]

/-- The checks of BUILD and ENC (43_envelope.md R90, 44_sequencer.md R97). -/
def buildError (s : State) : Option ErrCode :=
  firstError [(keySizeBad s, .invalidKeySize), (envelopeOverflows s, .bufferOverflow)]

/-- The checks of OPEN and DEC (43_envelope.md R91, 44_sequencer.md R98). -/
def openError (s : State) : Option ErrCode :=
  firstError [(keySizeBad s, .invalidKeySize), (dataSizeBad s, .invalidDataSize), (contentOverflows s, .bufferOverflow)]

end Sys2Proof.Machine
end

