-- ==== Sys2Proof/Machine/Checksum.lean ====
section
/-!
DEFINITION. The checksum accumulator and the command CSUM (40_checksum.md).
-/

namespace Sys2Proof.Machine

open Sys2Proof

/-- `acc_init` (R60). -/
def accInit (p : Params) : Word64 := p.fnvOffset

/-- `acc_absorb(b)` (R61): XOR into the low 8 bits first, then multiply modulo `2^64`. -/
def accAbsorb (p : Params) (a : Word64) (b : Byte) : Word64 := (a ^^^ b.zeroExtend 64) * p.fnvPrime

/-- `checksum(s)` (R62): the bytes are absorbed in ascending order. -/
def checksum (p : Params) (s : List Byte) : Word64 := s.foldl (accAbsorb p) (accInit p)

/-- CSUM (R64). -/
def execCsum (s : State) : Host.Outcome State Fault Refusal :=
  match contentError s with
  | some e => .next (raise e s)
  | none => .next (finish false { s with acc := checksum s.params (content s) })

end Sys2Proof.Machine
end

