-- ==== Sys2Proof/Machine/XorDatapath.lean ====
section
/-!
DEFINITION. The XOR datapath (42_xor_datapath.md). It has no command of its own.
-/

namespace Sys2Proof.Machine

open Sys2Proof

/-- `xorlayer(s, mask, key)` (R80): `t[i] = s[i] ^ mask[i mod 16] ^ key[i mod len(key)]`, the index counted from the first byte of the message.
It is only evaluated with a non-empty key (R83); log 15 says what stands here otherwise. -/
def xorLayer (mask key s : List Byte) : List Byte :=
  s.mapIdx fun i b => b ^^^ mask.getD (i % maskBytes) 0 ^^^ key.getD (i % key.length) 0

end Sys2Proof.Machine
end

