-- ==== Sys2Proof/Machine/Envelope.lean ====
section
/-!
DEFINITION. The envelope framer and the commands BUILD and OPEN (43_envelope.md).
-/

namespace Sys2Proof.Machine

open Sys2Proof

/-- `frame(h, mask, ct)` (R86): `le64(h)`, the mask, the ciphertext. -/
def frame (h : Word64) (mask ct : List Byte) : List Byte := le64 h ++ mask ++ ct

/-- The checksum field of an envelope, `from_le64(e[0..7])` (R87). -/
def parseChecksum (e : List Byte) : Word64 := fromLe64 (e.take ckBytes)

/-- The mask field of an envelope, `e[8..23]` (R87). -/
def parseMask (e : List Byte) : List Byte := (e.drop ckBytes).take maskBytes

/-- The ciphertext of an envelope, `e[24 .. len(e)-1]` (R87). -/
def parseCiphertext (e : List Byte) : List Byte := e.drop hdrBytes

/-- The envelope that `build()` makes of the content (R88): the checksum of the plaintext, the 16 bytes drawn, the XORed message. -/
def envelopeOf (s : State) : List Byte :=
  frame (checksum s.params (content s)) (rngBytes maskBytes s.dev) (xorLayer (rngBytes maskBytes s.dev) (keyOf s) (content s))

/-- `build()` (R88). -/
def buildContent (s : State) : State :=
  { drawRng maskBytes (writeBuf 0 (envelopeOf s) s) with
    len := BitVec.ofNat 32 (lenNat s + hdrBytes)
    acc := checksum s.params (content s)
    mask := maskOf (rngBytes maskBytes s.dev) }

/-- The 24 bytes above the recovered message: unspecified (R89), free (log 8). -/
def unspecifiedTail (s : State) : List Byte := (List.range hdrBytes).map (Config.tailByte s.free.tails)

/-- The message that `open()` recovers from an envelope (R89). -/
def recoveredMessage (key e : List Byte) : List Byte := xorLayer (parseMask e) key (parseCiphertext e)

/-- `open()` (R89). -/
def openContent (s : State) : State :=
  let e := content s
  let msg := recoveredMessage (keyOf s) e
  let h := checksum s.params msg
  let h' := parseChecksum e
  { writeBuf 0 (msg ++ unspecifiedTail s) s with
    len := BitVec.ofNat 32 (lenNat s - hdrBytes), acc := h, emb := h', mask := maskOf (parseMask e), ok := h == h',
    free := { s.free with tails := s.free.tails + 1 } }

/-- The end of OPEN and DEC: `open()` has written OK; `STATUS.ERR <- 0`, whatever OK is (R91, R92). -/
def finishOpen (s : State) : State := finish s.ok s

/-- BUILD (R90). -/
def execBuild (s : State) : Host.Outcome State Fault Refusal :=
  match buildError s with
  | some e => .next (raise e s)
  | none =>
    if s.dev.rngAnswers = false then .fault .rngNeverAnswers
    else .next (finish false (buildContent s))

/-- OPEN (R91). -/
def execOpen (s : State) : Host.Outcome State Fault Refusal :=
  match openError s with
  | some e => .next (raise e s)
  | none => .next (finishOpen (openContent s))

end Sys2Proof.Machine
end

