-- ==== Sys2Proof/Machine/Permutation.lean ====
section
/-!
DEFINITION. The permutation engine and the commands SHUF and UNSHUF (41_permutation.md).
-/

namespace Sys2Proof.Machine

open Sys2Proof

/-- `block(i)` (R68): keystream bytes `8i` to `8i+7`, the first of them least significant. -/
def block (p : Params) (key : List Byte) (i : Nat) : Nat :=
  leNat ((List.range ksBlock).map fun k => ksByte p key (ksBlock * i + k))

/-- The replay array `J[0 .. n-1]` (R69, 10_state.md R22), drawn ascending: `block(i)` modulo the WHOLE length `n` (R74, conflict C2). For
`n = 0` it is empty and no `mod 0` is evaluated (R78). -/
def indexSeq (p : Params) (key : List Byte) (n : Nat) : List Nat := (List.range n).map fun i => block p key i % n

/-- `swap(X[i], X[j])` (00_scope.md R8). -/
def swapBytes (b : List Byte) (i j : Nat) : List Byte := (b.set i (b.getD j 0)).set j (b.getD i 0)

/-- `step(i)` (R70). -/
def swapStep (J : List Nat) (b : List Byte) (i : Nat) : List Byte :=
  if i ≠ J.getD i i then swapBytes b i (J.getD i i) else b

/-- shuffle (R71): the steps in ascending order. -/
def shuffleBytes (J : List Nat) (b : List Byte) : List Byte := (List.range b.length).foldl (swapStep J) b

/-- unshuffle (R72): the same J, the steps in descending order. -/
def unshuffleBytes (J : List Nat) (b : List Byte) : List Byte := (List.range b.length).reverse.foldl (swapStep J) b

/-- The two directions of the permutation engine. -/
inductive Direction where
  | shuffle
  | unshuffle
deriving DecidableEq, Repr

/-- Permute a byte sequence in one direction. -/
def permuteBytes (d : Direction) (J : List Nat) (b : List Byte) : List Byte :=
  match d with
  | .shuffle => shuffleBytes J b
  | .unshuffle => unshuffleBytes J b

/-- The KS transactions of one permutation of length `n` (20_memory.md R45, R46): `init`, then `n` draws in ascending order, in BOTH directions
(R73). -/
def ksTraffic (p : Params) (key : List Byte) (n : Nat) : List PortOp :=
  .ksInit key :: (List.range n).map fun i => .ksNext8 (BitVec.ofNat 64 (block p key i))

/-- shuffle or unshuffle of the content, in place, after a `KS.init` that succeeded (R71, R72). -/
def permuteContent (d : Direction) (s : State) : State :=
  note (ksTraffic s.params (keyOf s) (lenNat s))
    (writeBuf 0 (permuteBytes d (indexSeq s.params (keyOf s) (lenNat s)) (content s)) s)

/-- What SHUF and UNSHUF share (R76, R77): BufferOverflow before anything, then `KS.init`, which may fail (R67), then the permutation. -/
def execPermute (d : Direction) (s : State) : Host.Outcome State Fault Refusal :=
  match contentError s with
  | some e => .next (raise e s)
  | none =>
    if s.dev.ksAnswers = false then .fault .ksNeverAnswers
    else if keySizeBad s then .next (raise .keystreamInitError (note [.ksInitFailed] s))
    else .next (finish false (permuteContent d s))

/-- SHUF (R76). -/
def execShuf (s : State) : Host.Outcome State Fault Refusal := execPermute .shuffle s

/-- UNSHUF (R77). -/
def execUnshuf (s : State) : Host.Outcome State Fault Refusal := execPermute .unshuffle s

end Sys2Proof.Machine
end

