-- ==== Sys2Proof/Machine/Sequencer.lean ====
section
/-!
DEFINITION. The command sequencer: GENKEY, ENC, DEC and the mode (44_sequencer.md).
-/

namespace Sys2Proof.Machine

open Sys2Proof

/-- The direction ENC applies (R95). -/
def encDirection : Mode → Direction
  | .optimizeEncryption => .shuffle
  | .optimizeDecryption => .unshuffle

/-- The direction DEC applies (R95). -/
def decDirection : Mode → Direction
  | .optimizeEncryption => .unshuffle
  | .optimizeDecryption => .shuffle

/-- The generated key: 256 draws to `KEY[0..255]`, KLEN becomes 256 (R96). -/
def generateKey (s : State) : State :=
  { drawRng genkeyLen (writeKey 0 (rngBytes genkeyLen s.dev) s) with klen := BitVec.ofNat 9 genkeyLen }

/-- GENKEY (R96). It has no error. -/
def execGenkey (s : State) : Host.Outcome State Fault Refusal :=
  if s.dev.rngAnswers = false then .fault .rngNeverAnswers
  else .next (finish false (generateKey s))

/-- ENC m (R97). KeystreamInitError cannot occur: KLEN has passed the same test. -/
def execEnc (m : Mode) (s : State) : Host.Outcome State Fault Refusal :=
  match buildError s with
  | some e => .next (raise e s)
  | none =>
    if s.dev.rngAnswers = false then .fault .rngNeverAnswers
    else if s.dev.ksAnswers = false then .fault .ksNeverAnswers
    else .next (finish false (permuteContent (encDirection m) (buildContent s)))

/-- DEC m (R98). KeystreamInitError cannot occur: KLEN has passed the same test. -/
def execDec (m : Mode) (s : State) : Host.Outcome State Fault Refusal :=
  match openError s with
  | some e => .next (raise e s)
  | none =>
    if s.dev.ksAnswers = false then .fault .ksNeverAnswers
    else .next (finishOpen (openContent (permuteContent (decDirection m) s)))

/-- How many bytes a command draws from the RNG port (20_memory.md R46): none if it ends with an error. -/
def rngDemand (i : Instr) (s : State) : Nat :=
  match i with
  | .csum | .shuf | .unshuf | .openEnv | .dec _ => 0
  | .build | .enc _ => if (buildError s).isSome then 0 else maskBytes
  | .genkey => genkeyLen

end Sys2Proof.Machine
end

