-- ==== Sys2Proof/Machine/Dispatch.lean ====
section
/-!
DEFINITION. The dispatch from a command to its meaning, one arm per command (30_encoding.md R51, R52).
-/

namespace Sys2Proof.Machine

open Sys2Proof

def exec (i : Instr) (s : State) : Host.Outcome State Fault Refusal :=
  match i with
  | .csum => Sys2Proof.Machine.execCsum s
  | .shuf => Sys2Proof.Machine.execShuf s
  | .unshuf => Sys2Proof.Machine.execUnshuf s
  | .build => Sys2Proof.Machine.execBuild s
  | .openEnv => Sys2Proof.Machine.execOpen s
  | .enc m => Sys2Proof.Machine.execEnc m s
  | .dec m => Sys2Proof.Machine.execDec m s
  | .genkey => Sys2Proof.Machine.execGenkey s

end Sys2Proof.Machine
end

