-- ==== Sys2Proof/Machine/HostAccess.lean ====
section
/-!
DEFINITION. The host's accesses (20_memory.md R30 to R39), the reset events (70_reset_and_hazards.md R122, R123), the command port (R32,
30_encoding.md R52) and the host macros (R57).
-/

namespace Sys2Proof.Machine

open Sys2Proof

/-- Answer the access being served. -/
def respond (r : Response) (s : State) : State := { s with host := { s.host with response := some r } }

/-- The value of a CTRL register, an unsigned number of its width (R31, R32). CMD is write-only; numbers 6 and above name no register. -/
def ctrlValue (s : State) : Nat → Option Nat
  | 1 => some (statusWord s).toNat
  | 2 => some s.klen.toNat
  | 3 => some s.len.toNat
  | 4 => some s.acc.toNat
  | 5 => some s.emb.toNat
  | _ => none

/-- What a read returns; `none` where it is a refused access (R32 to R36). The unit of every space is 1 (R37). -/
def readValue (sp : Space) (addr units : Nat) (s : State) : Option Nat :=
  if units ≠ 1 then none
  else match sp with
    | .ctrl => ctrlValue s addr
    | .keymem => if addr < keyMax then some (keyByte s addr).toNat else none
    | .bufmem => if addr < bufcap s then some (bufByte s addr).toNat else none
    | .maskmem => if addr < maskBytes then some (maskByte s addr).toNat else none

/-- A host read: no side effect but the answer on the port (R39). -/
def hostRead (sp : Space) (addr units : Nat) (s : State) : State :=
  match readValue sp addr units s with
  | some v => respond (.value v) s
  | none => respond .refusedAccess s

/-- The state after a host write that is no command; `none` where it is a refused access (R32 to R36). A datum is "a number of exactly the
register's width", a byte in the memories: a wider one is of the wrong width (log 15). -/
def writeEffect (sp : Space) (addr units v : Nat) (s : State) : Option State :=
  if units ≠ 1 then none
  else match sp with
    | .ctrl =>
      if addr = 2 ∧ v < 2 ^ 9 then some { s with klen := BitVec.ofNat 9 v }
      else if addr = 3 ∧ v < 2 ^ 32 then some { s with len := BitVec.ofNat 32 v }
      else none
    | .keymem => if addr < keyMax ∧ v < 2 ^ 8 then some (writeKey addr [BitVec.ofNat 8 v] s) else none
    | .bufmem => if addr < bufcap s ∧ v < 2 ^ 8 then some (writeBuf addr [BitVec.ofNat 8 v] s) else none
    | .maskmem => none

/-- A host write that is no command. -/
def hostWrite (sp : Space) (addr units v : Nat) (s : State) : State :=
  match writeEffect sp addr units v s with
  | some t => respond .done t
  | none => respond .refusedAccess s

/-- A reset that abandons the command of `word` (R123): the bytes it had drawn are lost, no more of them than the command draws, and the
state is that after reset. -/
def abandon (word : BitVec 8) (lost : Nat) (s : State) : State :=
  let demand :=
    match decode word with
    | .ok i => rngDemand i s
    | .error _ => 0
  resetBlock { s with dev := rngAdvance (min lost demand) s.dev }

/-- Everything from outside but a command. -/
def serve (ev : HostEvent) (s : State) : State :=
  match ev with
  | .read sp addr units => hostRead sp addr units s
  | .write sp addr units v => hostWrite sp addr units v s
  | .reset => resetBlock s
  | .abandoned word lost => abandon word lost s
  | .devices rng ks => { s with dev := { s.dev with rngAnswers := rng, ksAnswers := ks } }

/-- The command word of a write to CMD, CTRL register 0, one unit, 8 bits (R32). -/
def commandWord : HostEvent → Option (BitVec 8)
  | .write .ctrl 0 1 v => if v < 2 ^ 8 then some (BitVec.ofNat 8 v) else none
  | _ => none

/-- Execute a command word (30_encoding.md R52): an illegal one ends with IllegalCommand (R54, R55, 60_exceptions.md R110). -/
def runWord (w : BitVec 8) (s : State) : Host.Outcome State Fault Refusal :=
  match decode w with
  | .ok i => exec i s
  | .error _ => .next (raise .illegalCommand s)

/-- The write of a command word to CMD, as an access of the host. -/
def commandWrite (w : Nat) : HostEvent := .write .ctrl 0 1 w

/-- `SETKLEN v` (R57). -/
def setKlen (v : Nat) : List HostEvent := [.write .ctrl 2 1 v]

/-- `SETLEN v` (R57). -/
def setLen (v : Nat) : List HostEvent := [.write .ctrl 3 1 v]

/-- `LOADKEY b0 b1 …` (R57). -/
def loadKey (bytes : List Byte) : List HostEvent :=
  (bytes.mapIdx fun a b => HostEvent.write .keymem a 1 b.toNat) ++ setKlen bytes.length

/-- `LOADBUF b0 b1 …` (R57). -/
def loadBuf (bytes : List Byte) : List HostEvent :=
  (bytes.mapIdx fun a b => HostEvent.write .bufmem a 1 b.toNat) ++ setLen bytes.length

/-- A command written to CMD. -/
def command (i : Instr) : List HostEvent := [commandWrite (encode i).toNat]

/-- Serve one access or event: a command runs with the completion of its CMD write as the answer (R40); anything else is served. -/
def serveEvent (ev : HostEvent) (s : State) : Host.Outcome State Fault Refusal :=
  match commandWord ev with
  | some w => runWord w (respond .done s)
  | none => .next (serve ev s)

/-- Take the oldest access off the port. -/
def dequeue (s : State) : State := { s with host := { s.host with pending := s.host.pending.tail } }

/-- Put an access in front of all that are pending. -/
def enqueueFirst (ev : HostEvent) (s : State) : State := { s with host := { s.host with pending := ev :: s.host.pending } }

end Sys2Proof.Machine
end

