-- ==== Sys2Proof/Machine/Step.lean ====
section
/-!
DEFINITION. One step of the block: the oldest pending access of the host is served, wholly (20_memory.md R40). With none pending the block is
idle: "the block does nothing until the host writes CMD" (70_reset_and_hazards.md R122).
-/

namespace Sys2Proof.Machine

open Sys2Proof

def step (s : State) : Host.Outcome State Fault Refusal :=
  match s.host.pending with
  | [] => .next s
  | ev :: _ => serveEvent ev (dequeue s)

/-- `s` with a write of the word to CMD as the access served next (log 1). Every command has 8 bits, whatever `nbits` says (R50): a number that
is no 8-bit word is a refused access. -/
def State.withFetchWord (s : State) (_nbits w : Nat) : State := enqueueFirst (commandWrite w) s

end Sys2Proof.Machine
end

