-- ==== Sys2Proof/Safety.lean ====
section
/-!
DEFINITION. What holds of every state of the block: the terms that the statements about whole runs use.
-/

namespace Sys2Proof.Machine

open Sys2Proof

/-- KEY and BUF are in canonical form and list no address outside the memory (10_state.md R11, R13; log 7). -/
def MemoriesWf (s : State) : Prop := memWf keyMax s.key = true ∧ memWf (bufcap s) s.buf = true

/-- What STATUS.OK = 1 means: no error, and ACC = EMB (10_state.md R16, R18). -/
def StatusTruthful (s : State) : Prop := s.ok = true → s.err = .noError ∧ s.acc = s.emb

end Sys2Proof.Machine
end

