-- ==== Sys2Proof/Certificates/Slice0/Obligations.lean ====
section
/-!
DEFINITION. What is stated about the model, from the numbered rules of the spec. Everything is stated over every state, and so over every parameter, every
delivery of the random source and every keystream function.
-/

open Sys2Proof Sys2Proof.Machine

/-! ### Encoding (30_encoding.md) -/

/-- R51: the ten legal words and their commands; no other word is legal. -/
def Obligations.LegalWordsDecode : Prop :=
  decode 0x01 = .ok .csum ∧ decode 0x02 = .ok .shuf ∧ decode 0x03 = .ok .unshuf ∧ decode 0x04 = .ok .build ∧
  decode 0x05 = .ok .openEnv ∧
  decode 0x06 = .ok (.enc .optimizeEncryption) ∧ decode 0x16 = .ok (.enc .optimizeDecryption) ∧
  decode 0x07 = .ok (.dec .optimizeEncryption) ∧ decode 0x17 = .ok (.dec .optimizeDecryption) ∧
  decode 0x08 = .ok .genkey ∧
  ∀ w : BitVec 8, (∃ i, decode w = .ok i) ↔ w ∈ [0x01, 0x02, 0x03, 0x04, 0x05, 0x06, 0x07, 0x08, 0x16, 0x17]

/-- Decoding an encoded command gives it back, through the opcode table's numbering too, and each command has one word. -/
def Obligations.DecodeInvertsEncode : Prop :=
  ∀ i : Instr, decode (encode i) = .ok i ∧ decodeTableWord 8 (encode i).toNat = some i ∧
    ∀ w : BitVec 8, decode w = .ok i → w = encode i

/-- R52: on a write of `w` to CMD, the decoder's tests on the numbers of the fields, in its order, and the command each OP executes (the host port as log 1
and 2 hold it). -/
def Obligations.CommandWordRunsByItsFields : Prop :=
  ∀ (w : BitVec 8) (s : State) (rest : List HostEvent), s.host.pending = commandWrite w.toNat :: rest →
    let rsv := w.toNat / 32
    let m := w.toNat / 16 % 2
    let op := w.toNat % 16
    let s' : State := { s with host := { pending := rest, response := some .done } }
    let illegal : Host.Outcome State Fault Refusal := .next { s' with err := .illegalCommand, ok := false }
    let mode : Mode := if m = 0 then .optimizeEncryption else .optimizeDecryption
    step s =
      if rsv ≠ 0 then illegal
      else if op = 0 ∨ 9 ≤ op then illegal
      else if m = 1 ∧ op ≠ 6 ∧ op ≠ 7 then illegal
      else if op = 1 then exec .csum s'
      else if op = 2 then exec .shuf s'
      else if op = 3 then exec .unshuf s'
      else if op = 4 then exec .build s'
      else if op = 5 then exec .openEnv s'
      else if op = 6 then exec (.enc mode) s'
      else if op = 7 then exec (.dec mode) s'
      else exec .genkey s'

/-- R54, R55, R110: an illegal word written to CMD writes STATUS and nothing else (the host port as log 1 and 2 hold it); there are
246 of them. -/
def Obligations.IllegalWordChangesOnlyStatus : Prop :=
  (∀ (s : State) (w : BitVec 8) (rest : List HostEvent),
    s.host.pending = commandWrite w.toNat :: rest →
    (w.toNat / 32 ≠ 0 ∨ w.toNat % 16 = 0 ∨ 9 ≤ w.toNat % 16 ∨
      (w.toNat / 16 % 2 = 1 ∧ w.toNat % 16 ≠ 6 ∧ w.toNat % 16 ≠ 7)) →
    step s = .next { s with err := .illegalCommand, ok := false, host := { pending := rest, response := some .done } }) ∧
  ((List.range 256).filter fun w => decide (w / 32 ≠ 0 ∨ w % 16 = 0 ∨ 9 ≤ w % 16 ∨
      (w / 16 % 2 = 1 ∧ w % 16 ≠ 6 ∧ w % 16 ≠ 7))).length = 246

/-! ### The step and the host's accesses (20_memory.md) -/

/-- R32, R40: a pending write of a legal word to CMD runs its command; around it the step takes the access off the port and answers it. -/
def Obligations.StepRunsTheDecodedCommand : Prop :=
  ∀ (s : State) (w : BitVec 8) (i : Instr) (rest : List HostEvent),
    decode w = .ok i →
    (s.host.pending = commandWrite w.toNat :: rest →
      step s = exec i { s with host := { pending := rest, response := some .done } }) ∧
    step (s.withFetchWord 8 w.toNat) = exec i { s with host := { pending := s.host.pending, response := some .done } }

/-- R122: with no access pending the block does nothing. -/
def Obligations.IdleWithNoAccessPending : Prop :=
  ∀ s : State, s.host.pending = [] → step s = .next s

/-- R32 to R35, R39: a read returns the register or the byte, and changes nothing but the answer on the port (log 1, 2); STATUS reads as the number of its code
(R18, R105), 0 to 5, plus 16 if OK is 1. -/
def Obligations.HostReadsReturnTheState : Prop :=
  ∀ s : State,
    let answers (sp : Space) (a v : Nat) : Prop :=
      ∀ rest, s.host.pending = .read sp a 1 :: rest →
        step s = .next { s with host := { pending := rest, response := some (.value v) } }
    let ok : Nat := if s.ok = true then 1 else 0
    (s.err = .noError → answers .ctrl 1 (0 + 16 * ok)) ∧
    (s.err = .invalidKeySize → answers .ctrl 1 (1 + 16 * ok)) ∧
    (s.err = .invalidDataSize → answers .ctrl 1 (2 + 16 * ok)) ∧
    (s.err = .keystreamInitError → answers .ctrl 1 (3 + 16 * ok)) ∧
    (s.err = .bufferOverflow → answers .ctrl 1 (4 + 16 * ok)) ∧
    (s.err = .illegalCommand → answers .ctrl 1 (5 + 16 * ok)) ∧
    answers .ctrl 2 s.klen.toNat ∧ answers .ctrl 3 s.len.toNat ∧
    answers .ctrl 4 s.acc.toNat ∧ answers .ctrl 5 s.emb.toNat ∧
    (∀ a, a < 256 → answers .keymem a (keyByte s a).toNat) ∧
    (∀ a, a < s.params.bufcap.size → answers .bufmem a (bufByte s a).toNat) ∧
    (∀ a (h : a < 16), answers .maskmem a s.mask[a].toNat)

/-- R32 to R34: a write changes the one register or byte it names. -/
def Obligations.HostWritesChangeOneItem : Prop :=
  ∀ (s : State) (a v : Nat) (rest : List HostEvent),
    let port : HostPort := { pending := rest, response := some .done }
    (s.host.pending = .write .ctrl 2 1 v :: rest → v < 2 ^ 9 →
      step s = .next { s with klen := BitVec.ofNat 9 v, host := port }) ∧
    (s.host.pending = .write .ctrl 3 1 v :: rest → v < 2 ^ 32 →
      step s = .next { s with len := BitVec.ofNat 32 v, host := port }) ∧
    (s.host.pending = .write .keymem a 1 v :: rest → a < 256 → v < 2 ^ 8 →
      ∃ t, step s = .next t ∧ t = { s with key := t.key, host := port } ∧
        keyByte t a = BitVec.ofNat 8 v ∧ ∀ b, b ≠ a → keyByte t b = keyByte s b) ∧
    (s.host.pending = .write .bufmem a 1 v :: rest → a < s.params.bufcap.size → v < 2 ^ 8 →
      ∃ t, step s = .next t ∧ t = { s with buf := t.buf, host := port } ∧
        bufByte t a = BitVec.ofNat 8 v ∧ ∀ b, b ≠ a → bufByte t b = bufByte s b)

/-- R36: a refused access changes no state, STATUS included, and gets the error response (the host port as log 1 and 2 hold it). -/
def Obligations.RefusedAccessChangesNothing : Prop :=
  ∀ (s : State) (sp : Space) (a units v : Nat) (rest : List HostEvent),
    let outside := (sp = .ctrl ∧ 5 < a) ∨ (sp = .keymem ∧ 256 ≤ a) ∨ (sp = .bufmem ∧ s.params.bufcap.size ≤ a) ∨
      (sp = .maskmem ∧ 16 ≤ a)
    let answer : Host.Outcome State Fault Refusal :=
      .next { s with host := { pending := rest, response := some .refusedAccess } }
    (s.host.pending = .read sp a units :: rest → outside ∨ units ≠ 1 ∨ (sp = .ctrl ∧ a = 0) → step s = answer) ∧
    (s.host.pending = .write sp a units v :: rest →
      outside ∨ units ≠ 1 ∨ (sp = .ctrl ∧ (a = 1 ∨ a = 4 ∨ a = 5)) ∨ sp = .maskmem → step s = answer)

/-! ### Checksum (40_checksum.md) -/

/-- R60, R61: the accumulator starts at the offset; one byte is XORed into its low 8 bits, then it is multiplied modulo `2^64`. -/
def Obligations.AccumulatorAbsorbsOneByte : Prop :=
  ∀ (p : Params) (a : Word64) (b : Byte),
    accInit p = p.fnvOffset ∧
    (accAbsorb p a b).toNat = ((a.toNat ^^^ b.toNat) * p.fnvPrime.toNat) % 2 ^ 64

/-- R62: no bytes give the offset, and each further byte is absorbed last. -/
def Obligations.ChecksumAbsorbsInAscendingOrder : Prop :=
  ∀ p : Params, checksum p [] = p.fnvOffset ∧
    ∀ (xs : List Byte) (b : Byte),
      (checksum p (xs ++ [b])).toNat = (((checksum p xs).toNat ^^^ b.toNat) * p.fnvPrime.toNat) % 2 ^ 64

/-- R65, its last bullet: with an odd prime, two different bytes after the same sequence give two different checksums. -/
def Obligations.OddPrimeSeparatesLastBytes : Prop :=
  ∀ (p : Params) (xs : List Byte) (b c : Byte), p.fnvPrime.toNat % 2 = 1 →
    checksum p (xs ++ [b]) = checksum p (xs ++ [c]) → b = c

/-- R64: CSUM leaves the checksum of `BUF[0..LEN-1]` in ACC, whatever KLEN is, and changes nothing else but STATUS; content that does not fit ends it with
BufferOverflow. -/
def Obligations.CsumComputesTheChecksum : Prop :=
  (∀ s : State, s.len.toNat ≤ s.params.bufcap.size →
    exec .csum s =
      .next { s with acc := checksum s.params ((List.range s.len.toNat).map (bufByte s)), err := .noError, ok := false }) ∧
  (∀ s : State, s.params.bufcap.size < s.len.toNat →
    exec .csum s = .next { s with err := .bufferOverflow, ok := false })

/-! ### Permutation engine (41_permutation.md) -/

/-- R68: block `i` is keystream bytes `8i` to `8i+7`, least significant first, a number below `2^64`. -/
def Obligations.BlockIsLittleEndian : Prop :=
  ∀ (p : Params) (key : List Byte) (i : Nat),
    block p key i = ∑ k ∈ Finset.range 8, (ksByte p key (8 * i + k)).toNat * 2 ^ (8 * k) ∧ block p key i < 2 ^ 64

/-- R69: the index sequence has `n` entries, entry `i` is `block(i)` modulo the whole `n`, below `n`. -/
def Obligations.IndexIsBlockModuloLength : Prop :=
  ∀ (p : Params) (key : List Byte) (n : Nat),
    (indexSeq p key n).length = n ∧
    ∀ i, i < n → (indexSeq p key n)[i]? = some (block p key i % n) ∧ block p key i % n < n

/-- R70: a swap step exchanges the two bytes, leaves every other, and applied twice in a row restores the buffer. -/
def Obligations.SwapStepIsItsOwnInverse : Prop :=
  ∀ (J : List Nat) (b : List Byte) (i j : Nat), J[i]? = some j → i < b.length → j < b.length →
    (swapStep J b i)[i]? = b[j]? ∧ (swapStep J b i)[j]? = b[i]? ∧
    (∀ k, k ≠ i → k ≠ j → (swapStep J b i)[k]? = b[k]?) ∧
    swapStep J (swapStep J b i) i = b

/-- R71, R72: shuffle runs the swap steps in ascending order, unshuffle the same steps in descending order: the buffers `B i` between the steps. -/
def Obligations.StepsAscendForShuffleAndDescendForUnshuffle : Prop :=
  ∀ (J : List Nat) (b : List Byte),
    (∃ B : Nat → List Byte, B 0 = b ∧ (∀ i, i < b.length → B (i + 1) = swapStep J (B i) i) ∧ B b.length = shuffleBytes J b) ∧
    (∃ B : Nat → List Byte, B b.length = b ∧ (∀ i, i < b.length → B i = swapStep J (B (i + 1)) i) ∧ B 0 = unshuffleBytes J b)

/-- R79: for each key and length there is ONE bijection of positions that shuffle follows and unshuffle inverts; the bytes are only moved; and the two
directions are in general different, neither its own inverse. -/
def Obligations.PermutationIsABijection : Prop :=
  (∀ (p : Params) (key : List Byte) (n : Nat), ∃ π : Equiv.Perm (Fin n), ∀ b : List Byte, b.length = n →
    (∀ x : Fin n, (shuffleBytes (indexSeq p key n) b)[(π x).val]? = b[x.val]?) ∧
    (∀ x : Fin n, (unshuffleBytes (indexSeq p key n) b)[x.val]? = b[(π x).val]?) ∧
    (shuffleBytes (indexSeq p key n) b).Perm b ∧ (unshuffleBytes (indexSeq p key n) b).Perm b) ∧
  (∃ (p : Params) (key b : List Byte),
    let J := indexSeq p key b.length
    shuffleBytes J b ≠ unshuffleBytes J b ∧ shuffleBytes J (shuffleBytes J b) ≠ b ∧
      unshuffleBytes J (unshuffleBytes J b) ≠ b)

/-- R76, R77: with a legal KLEN and LEN, SHUF and UNSHUF end without error; the content is permuted in its direction, the bytes above it stay, and nothing else
changes but STATUS and what the KS port saw. -/
def Obligations.ShufAndUnshufPermuteTheContent : Prop :=
  ∀ s : State, 1 ≤ s.klen.toNat → s.klen.toNat ≤ 256 → s.len.toNat ≤ s.params.bufcap.size → s.dev.ksAnswers = true →
    let n := s.len.toNat
    let key := (List.range s.klen.toNat).map (keyByte s)
    let J := indexSeq s.params key n
    let frame (t : State) : Prop :=
      t = { s with buf := t.buf, err := .noError, ok := false, dev := t.dev } ∧ ∀ a, n ≤ a → bufByte t a = bufByte s a
    (∃ t, exec .shuf s = .next t ∧ content t = shuffleBytes J (content s) ∧ frame t) ∧
    (∃ t, exec .unshuf s = .next t ∧ content t = unshuffleBytes J (content s) ∧ frame t)

/-- R75: shuffle and unshuffle under the same key and length undo each other, in both orders, as functions and as commands. -/
def Obligations.ShuffleAndUnshuffleAreInverse : Prop :=
  (∀ (p : Params) (key b : List Byte),
    let J := indexSeq p key b.length
    unshuffleBytes J (shuffleBytes J b) = b ∧ shuffleBytes J (unshuffleBytes J b) = b) ∧
  (∀ s : State, 1 ≤ s.klen.toNat → s.klen.toNat ≤ 256 → s.len.toNat ≤ s.params.bufcap.size → s.dev.ksAnswers = true →
    (∃ t u, exec .shuf s = .next t ∧ exec .unshuf t = .next u ∧ ∀ a, bufByte u a = bufByte s a) ∧
    (∃ t u, exec .unshuf s = .next t ∧ exec .shuf t = .next u ∧ ∀ a, bufByte u a = bufByte s a))

/-- R78: a permutation of no byte issues `init` and draws no block, one of a single byte draws one block; the buffer is unchanged by both. -/
def Obligations.ShortPermutationsChangeNoByte : Prop :=
  ∀ (s : State) (i : Instr), i = .shuf ∨ i = .unshuf →
    1 ≤ s.klen.toNat → s.klen.toNat ≤ 256 → s.len.toNat ≤ 1 → s.dev.ksAnswers = true →
    ∃ t, exec i s = .next t ∧ (∀ a, bufByte t a = bufByte s a) ∧ t.err = .noError ∧
      t.dev.traffic.length = s.dev.traffic.length + 1 + s.len.toNat

/-! ### XOR datapath (42_xor_datapath.md) -/

/-- R80: byte `i` of the XOR layer, with the mask of period 16 and the key of its own length. -/
def Obligations.XorLayerIsBytewise : Prop :=
  ∀ mask key s : List Byte, mask.length = 16 → 1 ≤ key.length → key.length ≤ 256 →
    (xorLayer mask key s).length = s.length ∧
    ∀ (i : Nat) (x m k : Byte), s[i]? = some x → mask[i % 16]? = some m → key[i % key.length]? = some k →
      (xorLayer mask key s)[i]? = some (x ^^^ m ^^^ k)

/-- R81: the XOR layer is its own inverse for a fixed mask and key. -/
def Obligations.XorLayerIsItsOwnInverse : Prop :=
  ∀ mask key s : List Byte, mask.length = 16 → 1 ≤ key.length → key.length ≤ 256 →
    xorLayer mask key (xorLayer mask key s) = s

/-! ### Envelope framer (43_envelope.md) -/

/-- R86, R87: a frame is the checksum in little-endian order, the mask and the ciphertext, 24 bytes more than the ciphertext; parsing takes any 24 or more bytes
apart by position; parsing a frame gives its three parts back. -/
def Obligations.ParseInvertsFrame : Prop :=
  (∀ (h : Word64) (mask ct : List Byte), mask.length = 16 →
    (frame h mask ct).length = 24 + ct.length ∧
    (∀ k, k < 8 → (frame h mask ct)[k]? = some (BitVec.ofNat 8 (h.toNat / 2 ^ (8 * k)))) ∧
    (∀ k, k < 16 → (frame h mask ct)[8 + k]? = mask[k]?) ∧
    (∀ i, (frame h mask ct)[24 + i]? = ct[i]?) ∧
    parseChecksum (frame h mask ct) = h ∧ parseMask (frame h mask ct) = mask ∧ parseCiphertext (frame h mask ct) = ct) ∧
  (∀ e : List Byte, 24 ≤ e.length →
    (parseChecksum e).toNat = ∑ k ∈ Finset.range 8, (e.getD k 0).toNat * 2 ^ (8 * k) ∧
    (parseMask e).length = 16 ∧ (∀ k, k < 16 → (parseMask e)[k]? = e[8 + k]?) ∧
    (parseCiphertext e).length = e.length - 24 ∧ (∀ i, (parseCiphertext e)[i]? = e[24 + i]?))

/-- R88: with a legal KLEN and an envelope that fits, BUILD ends without error and leaves, byte by byte, the little-endian checksum of the message,
the 16 bytes drawn and the XORed message; LEN grows by 24; ACC and MASK hold the checksum and the mask; nothing else changes but STATUS and what the RNG port saw (log 6). -/
def Obligations.BuildMakesTheEnvelope : Prop :=
  ∀ s : State, 1 ≤ s.klen.toNat → s.klen.toNat ≤ 256 → s.len.toNat + 24 ≤ s.params.bufcap.size → s.dev.rngAnswers = true →
    ∃ t, exec .build s = .next t ∧
      (∀ k, k < 8 → bufByte t k = t.acc.extractLsb' (8 * k) 8) ∧
      (∀ k, k < 16 → bufByte t (8 + k) = rngByteAt s.dev k) ∧
      (∀ i, i < s.len.toNat →
        bufByte t (24 + i) = bufByte s i ^^^ rngByteAt s.dev (i % 16) ^^^ keyByte s (i % s.klen.toNat)) ∧
      (∀ a, s.len.toNat + 24 ≤ a → bufByte t a = bufByte s a) ∧
      t.len.toNat = s.len.toNat + 24 ∧
      t.acc = checksum s.params ((List.range s.len.toNat).map (bufByte s)) ∧
      (∀ k (h : k < 16), t.mask[k] = rngByteAt s.dev k) ∧
      t = { s with buf := t.buf, len := t.len, acc := t.acc, mask := t.mask, err := .noError, ok := false, dev := t.dev }

/-- R89: with a legal KLEN and 24 <= LEN <= BUFCAP, OPEN ends without error whatever the checksums are; the message is recovered byte by byte; LEN
shrinks by 24; MASK and EMB are the fields of the envelope, ACC the checksum of the message, OK whether they agree; bytes above the envelope stay. -/
def Obligations.OpenRecoversTheMessage : Prop :=
  ∀ s : State, 1 ≤ s.klen.toNat → s.klen.toNat ≤ 256 → 24 ≤ s.len.toNat → s.len.toNat ≤ s.params.bufcap.size →
    ∃ t, exec .openEnv s = .next t ∧
      t.len.toNat = s.len.toNat - 24 ∧
      (∀ i, i < s.len.toNat - 24 →
        bufByte t i = bufByte s (24 + i) ^^^ bufByte s (8 + i % 16) ^^^ keyByte s (i % s.klen.toNat)) ∧
      (∀ k (h : k < 16), t.mask[k] = bufByte s (8 + k)) ∧
      t.emb.toNat = ∑ k ∈ Finset.range 8, (bufByte s k).toNat * 2 ^ (8 * k) ∧
      t.acc = checksum s.params (content t) ∧
      (t.ok = true ↔ t.acc = t.emb) ∧
      (∀ a, s.len.toNat ≤ a → bufByte t a = bufByte s a) ∧
      t = { s with
        buf := t.buf, len := t.len, acc := t.acc, emb := t.emb, mask := t.mask, err := .noError, ok := t.ok, free := t.free }

/-- R93: after a BUILD, an OPEN in any state with the same key, KLEN, LEN and content gives the message back and finds it authentic. -/
def Obligations.OpenUndoesBuild : Prop :=
  ∀ s : State, 1 ≤ s.klen.toNat → s.klen.toNat ≤ 256 → s.len.toNat + 24 ≤ s.params.bufcap.size → s.dev.rngAnswers = true →
    ∃ t, exec .build s = .next t ∧
      ∀ t' : State, t'.params = t.params → t'.klen = t.klen → (∀ a, a < t.klen.toNat → keyByte t' a = keyByte t a) →
        t'.len = t.len → (∀ a, a < t.len.toNat → bufByte t' a = bufByte t a) →
        ∃ u, exec .openEnv t' = .next u ∧ u.err = .noError ∧ u.ok = true ∧ u.len = s.len ∧
          (∀ i, i < s.len.toNat → bufByte u i = bufByte s i) ∧
          u.acc = checksum s.params (content s) ∧ u.emb = u.acc ∧ u.mask = t.mask

/-- R16, R18, R92: after any command, OK is 1 exactly when it was an OPEN or a DEC that ended without error and left ACC equal to EMB. -/
def Obligations.IntegrityFlagMeansChecksumsAgree : Prop :=
  ∀ (i : Instr) (s t : State), exec i s = .next t →
    (t.ok = true ↔ (i = .openEnv ∨ ∃ m, i = .dec m) ∧ t.err = .noError ∧ t.acc = t.emb)

/-! ### Sequencer (44_sequencer.md) -/

/-- R96: GENKEY fills KEY with 256 drawn bytes in ascending order, sets KLEN to 256, and changes nothing else but STATUS and what the RNG port saw (log 6). -/
def Obligations.GenkeyFillsTheKey : Prop :=
  ∀ s : State, s.dev.rngAnswers = true →
    ∃ t, exec .genkey s = .next t ∧
      (∀ a, a < 256 → keyByte t a = rngByteAt s.dev a) ∧ t.klen = 256 ∧
      t = { s with key := t.key, klen := t.klen, err := .noError, ok := false, dev := t.dev }

/-- R95, R97: with a legal KLEN and an envelope that fits, ENC m ends without error and leaves the envelope of the message, permuted over all its bytes,
by shuffle for mode 0 and unshuffle for mode 1. -/
def Obligations.EncPermutesTheEnvelope : Prop :=
  ∀ (s : State) (m : Mode), 1 ≤ s.klen.toNat → s.klen.toNat ≤ 256 → s.len.toNat + 24 ≤ s.params.bufcap.size →
    s.dev.rngAnswers = true → s.dev.ksAnswers = true →
    let n := s.len.toNat
    let key := (List.range s.klen.toNat).map (keyByte s)
    let msg := (List.range n).map (bufByte s)
    let mask := (List.range 16).map (rngByteAt s.dev)
    let env := le64 (checksum s.params msg) ++ mask ++ xorLayer mask key msg
    let J := indexSeq s.params key (n + 24)
    ∃ t, exec (.enc m) s = .next t ∧
      content t = (match m with
        | .optimizeEncryption => shuffleBytes J env
        | .optimizeDecryption => unshuffleBytes J env) ∧
      t.len.toNat = n + 24 ∧ t.acc = checksum s.params msg ∧ t.mask.toList = mask ∧
      (∀ a, n + 24 ≤ a → bufByte t a = bufByte s a) ∧
      t = { s with buf := t.buf, len := t.len, acc := t.acc, mask := t.mask, err := .noError, ok := false, dev := t.dev }

/-- R95, R98: with a legal KLEN and 24 <= LEN <= BUFCAP, DEC m ends without error whatever the checksums are: it undoes the permutation of its mode over all LEN
bytes, then opens the envelope. -/
def Obligations.DecOpensTheUnpermutedEnvelope : Prop :=
  ∀ (s : State) (m : Mode), 1 ≤ s.klen.toNat → s.klen.toNat ≤ 256 → 24 ≤ s.len.toNat →
    s.len.toNat ≤ s.params.bufcap.size → s.dev.ksAnswers = true →
    let n := s.len.toNat
    let key := (List.range s.klen.toNat).map (keyByte s)
    let J := indexSeq s.params key n
    let bytes := (List.range n).map (bufByte s)
    let env := match m with
      | .optimizeEncryption => unshuffleBytes J bytes
      | .optimizeDecryption => shuffleBytes J bytes
    let mask := (env.drop 8).take 16
    let msg := xorLayer mask key (env.drop 24)
    ∃ t, exec (.dec m) s = .next t ∧
      content t = msg ∧ t.len.toNat = n - 24 ∧ t.acc = checksum s.params msg ∧ t.emb = fromLe64 (env.take 8) ∧
      t.mask.toList = mask ∧ (t.ok = true ↔ t.acc = t.emb) ∧
      (∀ a, n ≤ a → bufByte t a = bufByte s a) ∧
      t = { s with
        buf := t.buf, len := t.len, acc := t.acc, emb := t.emb, mask := t.mask, err := .noError, ok := t.ok, dev := t.dev,
        free := t.free }

/-- R101: without error, ENC m is BUILD and then the permutation of its mode, in the whole state and so in the port traffic too. -/
def Obligations.EncIsBuildThenPermute : Prop :=
  ∀ (s : State) (m : Mode), 1 ≤ s.klen.toNat → s.klen.toNat ≤ 256 → s.len.toNat + 24 ≤ s.params.bufcap.size →
    s.dev.rngAnswers = true → s.dev.ksAnswers = true →
    ∃ t u, exec .build s = .next t ∧
      exec (match m with | .optimizeEncryption => .shuf | .optimizeDecryption => .unshuf) t = .next u ∧
      exec (.enc m) s = .next u

/-- R101: without error, DEC m is the permutation that undoes its mode and then OPEN, in the whole state and so in the port traffic too. -/
def Obligations.DecIsPermuteThenOpen : Prop :=
  ∀ (s : State) (m : Mode), 1 ≤ s.klen.toNat → s.klen.toNat ≤ 256 → 24 ≤ s.len.toNat →
    s.len.toNat ≤ s.params.bufcap.size → s.dev.ksAnswers = true →
    ∃ t u, exec (match m with | .optimizeEncryption => .unshuf | .optimizeDecryption => .shuf) s = .next t ∧
      exec .openEnv t = .next u ∧ exec (.dec m) s = .next u

/-- R100: after an ENC m, a DEC m with the same mode in any state with the same key, KLEN, LEN and content gives the message back and finds it authentic. -/
def Obligations.DecUndoesEnc : Prop :=
  ∀ (s : State) (m : Mode), 1 ≤ s.klen.toNat → s.klen.toNat ≤ 256 → s.len.toNat + 24 ≤ s.params.bufcap.size →
    s.dev.rngAnswers = true → s.dev.ksAnswers = true →
    ∃ t, exec (.enc m) s = .next t ∧
      ∀ t' : State, t'.params = t.params → t'.klen = t.klen → (∀ a, a < t.klen.toNat → keyByte t' a = keyByte t a) →
        t'.len = t.len → (∀ a, a < t.len.toNat → bufByte t' a = bufByte t a) → t'.dev.ksAnswers = true →
        ∃ u, exec (.dec m) t' = .next u ∧ u.err = .noError ∧ u.ok = true ∧ u.len = s.len ∧
          (∀ i, i < s.len.toNat → bufByte u i = bufByte s i) ∧
          u.acc = checksum s.params (content s) ∧ u.emb = u.acc ∧ u.mask = t.mask

/-- R102: ENC and BUILD add exactly 24 to LEN, DEC and OPEN subtract exactly 24, the others leave LEN alone. -/
def Obligations.LengthChangesByTwentyFour : Prop :=
  ∀ (i : Instr) (s t : State), exec i s = .next t → t.err = .noError →
    match i with
    | .build => t.len.toNat = s.len.toNat + 24
    | .enc _ => t.len.toNat = s.len.toNat + 24
    | .openEnv => t.len.toNat + 24 = s.len.toNat
    | .dec _ => t.len.toNat + 24 = s.len.toNat
    | .csum => t.len = s.len
    | .shuf => t.len = s.len
    | .unshuf => t.len = s.len
    | .genkey => t.len = s.len

/-! ### Errors (60_exceptions.md) -/

/-- R106: with KLEN 0 or above 256, BUILD, OPEN, ENC and DEC end with InvalidKeySize, whatever LEN is and whether or not the devices answer. -/
def Obligations.BadKeyLengthEndsWithInvalidKeySize : Prop :=
  ∀ (s : State) (m : Mode) (i : Instr), i = .build ∨ i = .openEnv ∨ i = .enc m ∨ i = .dec m →
    s.klen.toNat = 0 ∨ 256 < s.klen.toNat →
    exec i s = .next { s with err := .invalidKeySize, ok := false }

/-- R107: with a legal KLEN and LEN below 24, OPEN and DEC end with InvalidDataSize. -/
def Obligations.ShortEnvelopeEndsWithInvalidDataSize : Prop :=
  ∀ (s : State) (m : Mode) (i : Instr), i = .openEnv ∨ i = .dec m →
    1 ≤ s.klen.toNat → s.klen.toNat ≤ 256 → s.len.toNat < 24 →
    exec i s = .next { s with err := .invalidDataSize, ok := false }

/-- R109: content, or an envelope about to be built, that does not fit the buffer ends the command with BufferOverflow, after the key and data checks. -/
def Obligations.OversizeEndsWithBufferOverflow : Prop :=
  ∀ (s : State) (m : Mode) (i : Instr),
    let error : Host.Outcome State Fault Refusal := .next { s with err := .bufferOverflow, ok := false }
    (i = .csum ∨ i = .shuf ∨ i = .unshuf → s.params.bufcap.size < s.len.toNat → exec i s = error) ∧
    (i = .openEnv ∨ i = .dec m → 1 ≤ s.klen.toNat → s.klen.toNat ≤ 256 → s.params.bufcap.size < s.len.toNat →
      exec i s = error) ∧
    (i = .build ∨ i = .enc m → 1 ≤ s.klen.toNat → s.klen.toNat ≤ 256 → s.params.bufcap.size < s.len.toNat + 24 →
      exec i s = error)

/-- R67, R108: with content that fits and KLEN 0 or above 256, SHUF and UNSHUF end with KeystreamInitError after one failing `KS.init`, nothing drawn and the
buffer untouched. -/
def Obligations.BadKeyLengthFailsTheKeystream : Prop :=
  ∀ (s : State) (i : Instr), i = .shuf ∨ i = .unshuf → s.len.toNat ≤ s.params.bufcap.size →
    s.klen.toNat = 0 ∨ 256 < s.klen.toNat → s.dev.ksAnswers = true →
    exec i s = .next { s with
      err := .keystreamInitError, ok := false, dev := { s.dev with traffic := s.dev.traffic ++ [.ksInitFailed] } }

/-- R105, R111: the one code each command word ends with: IllegalCommand first, then InvalidKeySize, InvalidDataSize, BufferOverflow, KeystreamInitError. -/
def Obligations.ErrorsComeInTheFixedOrder : Prop :=
  ∀ (w : BitVec 8) (s t : State), runWord w s = .next t →
    let badKey := s.klen.toNat = 0 ∨ 256 < s.klen.toNat
    let short := s.len.toNat < 24
    let tooLong := s.params.bufcap.size < s.len.toNat
    let envTooLong := s.params.bufcap.size < s.len.toNat + 24
    let permute : ErrCode := if tooLong then .bufferOverflow else if badKey then .keystreamInitError else .noError
    let build : ErrCode := if badKey then .invalidKeySize else if envTooLong then .bufferOverflow else .noError
    let openEnv : ErrCode :=
      if badKey then .invalidKeySize else if short then .invalidDataSize else if tooLong then .bufferOverflow else .noError
    t.err = match decode w with
      | .error _ => .illegalCommand
      | .ok .csum => if tooLong then .bufferOverflow else .noError
      | .ok .shuf => permute
      | .ok .unshuf => permute
      | .ok .build => build
      | .ok (.enc _) => build
      | .ok .openEnv => openEnv
      | .ok (.dec _) => openEnv
      | .ok .genkey => .noError

/-- R112: a command that ends with an error writes STATUS and nothing else, with the one failing `KS.init` of a KeystreamInitError on the KS port
(the traffic as log 11 holds it). -/
def Obligations.ErrorTouchesOnlyStatus : Prop :=
  ∀ (w : BitVec 8) (s t : State), runWord w s = .next t → t.err ≠ .noError →
    (t.err ≠ .keystreamInitError → t = { s with err := t.err, ok := false }) ∧
    (t.err = .keystreamInitError →
      t = { s with err := t.err, ok := false, dev := { s.dev with traffic := s.dev.traffic ++ [.ksInitFailed] } })

/-- R18, R113: STATUS is not sticky: what it held before a command has no influence on anything the command leaves. -/
def Obligations.StatusIsNotSticky : Prop :=
  ∀ (w : BitVec 8) (s : State) (e : ErrCode) (b : Bool), runWord w { s with err := e, ok := b } = runWord w s

/-! ### Reset, termination and port traffic -/

/-- R26: the values after reset; the bytes of KEY and BUF are the model's free values (log 7). -/
def Obligations.ResetLeavesTheSpecifiedValues : Prop :=
  State.reset.klen = 0 ∧ State.reset.len = 0 ∧ State.reset.acc = 0 ∧ State.reset.emb = 0 ∧
  (∀ k (h : k < 16), State.reset.mask[k] = 0) ∧ State.reset.err = .noError ∧ State.reset.ok = false ∧
  statusWord State.reset = 0 ∧
  ∀ a, keyByte State.reset a = Config.keyAtReset 0 a ∧ bufByte State.reset a = Config.bufAtReset 0 a

/-- R122, R123, with log 7, 10 and 11: a reset, between commands or during one, leaves the reset values, KEY and BUF free anew, whatever the state was. The bytes an
abandoned command drew are lost: as many as the event says, or all the command draws if that is fewer; the second clause gives that number for each command. -/
def Obligations.ResetEventsLeaveTheResetState : Prop :=
  (∀ (s : State) (ev : HostEvent) (w : BitVec 8) (lost : Nat) (rest : List HostEvent),
    ev = .reset ∨ ev = .abandoned w lost → s.host.pending = ev :: rest →
    let demand : Nat := match decode w with
      | .ok i => rngDemand i s
      | .error _ => 0
    let k : Nat := if ev = .reset then 0 else min lost demand
    ∃ t, step s = .next t ∧
      t.klen = 0 ∧ t.len = 0 ∧ t.acc = 0 ∧ t.emb = 0 ∧ t.mask = Vector.replicate 16 0 ∧ t.err = .noError ∧ t.ok = false ∧
      t.free = { s.free with resets := s.free.resets + 1 } ∧
      (∀ a, keyByte t a = Config.keyAtReset t.free.resets a ∧ bufByte t a = Config.bufAtReset t.free.resets a) ∧
      t.params = s.params ∧ t.host = { pending := rest, response := none } ∧
      t.dev = { s.dev with rngFeed := s.dev.rngFeed.drop k, rngDrawn := s.dev.rngDrawn + k, traffic := [] }) ∧
  (∀ (i : Instr) (s : State),
    let builds : Nat := if 1 ≤ s.klen.toNat ∧ s.klen.toNat ≤ 256 ∧ s.len.toNat + 24 ≤ s.params.bufcap.size then 16 else 0
    rngDemand i s = match i with
      | .csum => 0
      | .shuf => 0
      | .unshuf => 0
      | .build => builds
      | .openEnv => 0
      | .enc _ => builds
      | .dec _ => 0
      | .genkey => 256)

/-- R131: every step ends, and every command, when the two devices answer. -/
def Obligations.EveryCommandEndsIfTheDevicesAnswer : Prop :=
  ∀ s : State, s.dev.rngAnswers = true → s.dev.ksAnswers = true →
    (∀ i, ∃ t, exec i s = .next t) ∧ ∃ t, step s = .next t

/-- R131, 93_implementation_defined.md U13, with log 9: a command hangs exactly on a silent device to which it issues a transaction: it is GENKEY or its checks are
passed, and in ENC the draws come before `KS.init`; no command is refused. -/
def Obligations.OnlyASilentDeviceHangsACommand : Prop :=
  ∀ (i : Instr) (s : State),
    let keyOk : Prop := 1 ≤ s.klen.toNat ∧ s.klen.toNat ≤ 256
    let fits : Prop := s.len.toNat ≤ s.params.bufcap.size
    let envFits : Prop := s.len.toNat + 24 ≤ s.params.bufcap.size
    let draws : Prop := match i with
      | .csum => False
      | .shuf => False
      | .unshuf => False
      | .build => keyOk ∧ envFits
      | .openEnv => False
      | .enc _ => keyOk ∧ envFits
      | .dec _ => False
      | .genkey => True
    let inits : Prop := match i with
      | .csum => False
      | .shuf => fits
      | .unshuf => fits
      | .build => False
      | .openEnv => False
      | .enc _ => keyOk ∧ envFits ∧ s.dev.rngAnswers = true
      | .dec _ => keyOk ∧ 24 ≤ s.len.toNat ∧ fits
      | .genkey => False
    (exec i s = .fault .rngNeverAnswers ↔ s.dev.rngAnswers = false ∧ draws) ∧
    (exec i s = .fault .ksNeverAnswers ↔ s.dev.ksAnswers = false ∧ inits) ∧
    ∀ r, exec i s ≠ .refused r

/-- R46: the port traffic of each command, in order, as log 11 holds it: none after an error but the failing `KS.init`. -/
def Obligations.PortTrafficOfEachCommand : Prop :=
  ∀ (i : Instr) (s t : State), exec i s = .next t →
    let key := (List.range s.klen.toNat).map (keyByte s)
    let m := s.len.toNat
    let draws (n : Nat) : List PortOp := (List.range n).map fun k => .rngDraw (rngByteAt s.dev k)
    let blocks (n : Nat) : List PortOp :=
      .ksInit key :: (List.range n).map fun k => .ksNext8 (BitVec.ofNat 64 (block s.params key k))
    (t.err = .noError → t.dev.traffic = s.dev.traffic ++ match i with
      | .csum => []
      | .shuf => blocks m
      | .unshuf => blocks m
      | .build => draws 16
      | .openEnv => []
      | .enc _ => draws 16 ++ blocks (m + 24)
      | .dec _ => blocks m
      | .genkey => draws 256) ∧
    (t.err ≠ .noError → t.dev.traffic = s.dev.traffic ++
      if t.err = .keystreamInitError then [.ksInitFailed] else [])

/-- The model's own bookkeeping (log 6, 8, 11): a command uses up the bytes it draws and no others, does not touch whether the devices answer, and the 24
unspecified bytes (R89) above the message of an OPEN or DEC that ends without error are free bytes at the index `free.tails`, which then goes up by one. -/
def Obligations.DrawsAndFreeValuesAreUsedOnce : Prop :=
  ∀ (i : Instr) (s t : State), exec i s = .next t →
    let draws : Nat := if t.err ≠ .noError then 0 else match i with
      | .csum => 0
      | .shuf => 0
      | .unshuf => 0
      | .build => 16
      | .openEnv => 0
      | .enc _ => 16
      | .dec _ => 0
      | .genkey => 256
    let tails : Nat := if t.err ≠ .noError then 0 else match i with
      | .csum => 0
      | .shuf => 0
      | .unshuf => 0
      | .build => 0
      | .openEnv => 1
      | .enc _ => 0
      | .dec _ => 1
      | .genkey => 0
    t.dev = { s.dev with
      rngFeed := s.dev.rngFeed.drop draws, rngDrawn := s.dev.rngDrawn + draws, traffic := t.dev.traffic } ∧
    t.free = { s.free with tails := s.free.tails + tails } ∧
    (tails = 1 → ∀ k, k < 24 → bufByte t (t.len.toNat + k) = Config.tailByte s.free.tails k)

/-! ### Frames, isolation, invariants -/

/-- R27: what each command writes, and what it leaves unchanged: every register, every byte of KEY and BUF, the host port, the parameters. -/
def Obligations.EachCommandWritesOnlyItsState : Prop :=
  ∀ (i : Instr) (s t : State), exec i s = .next t →
    (t.err ≠ .noError → t = { s with err := t.err, ok := t.ok, dev := t.dev }) ∧
    (t.err = .noError → match i with
      | .csum => t = { s with acc := t.acc, err := t.err, ok := t.ok }
      | .shuf => t = { s with buf := t.buf, err := t.err, ok := t.ok, dev := t.dev } ∧
          ∀ a, s.len.toNat ≤ a → bufByte t a = bufByte s a
      | .unshuf => t = { s with buf := t.buf, err := t.err, ok := t.ok, dev := t.dev } ∧
          ∀ a, s.len.toNat ≤ a → bufByte t a = bufByte s a
      | .build => t = { s with buf := t.buf, len := t.len, acc := t.acc, mask := t.mask, err := t.err, ok := t.ok, dev := t.dev } ∧
          ∀ a, s.len.toNat + 24 ≤ a → bufByte t a = bufByte s a
      | .enc _ => t = { s with buf := t.buf, len := t.len, acc := t.acc, mask := t.mask, err := t.err, ok := t.ok, dev := t.dev } ∧
          ∀ a, s.len.toNat + 24 ≤ a → bufByte t a = bufByte s a
      | .openEnv => t = { s with buf := t.buf, len := t.len, acc := t.acc, emb := t.emb, mask := t.mask, err := t.err, ok := t.ok, free := t.free } ∧
          ∀ a, s.len.toNat ≤ a → bufByte t a = bufByte s a
      | .dec _ => t = { s with buf := t.buf, len := t.len, acc := t.acc, emb := t.emb, mask := t.mask, err := t.err, ok := t.ok, dev := t.dev, free := t.free } ∧
          ∀ a, s.len.toNat ≤ a → bufByte t a = bufByte s a
      | .genkey => t = { s with key := t.key, klen := t.klen, err := t.err, ok := t.ok, dev := t.dev } ∧
          ∀ a, 256 ≤ a → keyByte t a = keyByte s a)

/-- R25: no step changes a parameter. -/
def Obligations.ParametersNeverChange : Prop :=
  ∀ s t : State, step s = .next t → t.params = s.params

/-- R11: bytes of KEY at or above KLEN are never read: another value there changes nothing that a command leaves but that byte itself. -/
def Obligations.UnusedKeyBytesAreNeverRead : Prop :=
  ∀ (i : Instr) (s t : State) (a : Nat) (v : Byte), s.klen.toNat ≤ a → exec i s = .next t →
    ∃ k, exec i { s with key := memPut s.key a v } = .next { t with key := k } ∧
      ∀ b, b ≠ a → keyByte { t with key := k } b = keyByte t b

/-- R48, 93_implementation_defined.md U12: bytes of BUF at or above LEN are never read: another value there changes nothing that a command leaves but that byte
itself. -/
def Obligations.StaleBufferBytesAreNeverRead : Prop :=
  ∀ (i : Instr) (s t : State) (a : Nat) (v : Byte), s.len.toNat ≤ a → exec i s = .next t →
    ∃ m, exec i { s with buf := memPut s.buf a v } = .next { t with buf := m } ∧
      ∀ b, b ≠ a → bufByte { t with buf := m } b = bufByte t b

/-- R11, R13: every step keeps KEY and BUF in canonical form and inside their sizes. -/
def Obligations.EveryStepKeepsTheMemoriesWellFormed : Prop :=
  ∀ s t : State, MemoriesWf s → step s = .next t → MemoriesWf t

/-- The memories after reset are well formed. -/
def Obligations.ResetMemoriesAreWellFormed : Prop := MemoriesWf State.reset

/-- R16, R18: every step keeps it true that OK = 1 means no error and ACC = EMB. -/
def Obligations.EveryStepKeepsTheStatusTruthful : Prop :=
  ∀ s t : State, StatusTruthful s → step s = .next t → StatusTruthful t

/-- STATUS after reset is truthful. -/
def Obligations.ResetStatusIsTruthful : Prop := StatusTruthful State.reset
end

