-- ==== Sys2Proof/Laws/Bytes.lean ====
section
/-!
SUPPORT. The laws of the pure datapath functions: byte order, lengths, one byte of an XORed sequence, one byte after a swap step.
-/

namespace Sys2Proof.Machine

open Sys2Proof

@[simp] theorem length_le64 (v : Word64) : (le64 v).length = 8 := by simp [le64]

theorem getElem_le64 (v : Word64) (k : Nat) (h : k < (le64 v).length) : (le64 v)[k] = v.extractLsb' (8 * k) 8 := by simp [le64]

/-- A little-endian number is below `2^(8·length)`. -/
theorem leNat_lt (b : List Byte) : leNat b < 2 ^ (8 * b.length) := by
  induction b with
  | nil => simp [leNat]
  | cons x xs ih =>
    have := x.isLt
    have e : 2 ^ (8 * (x :: xs).length) = 2 ^ 8 * 2 ^ (8 * xs.length) := by rw [← Nat.pow_add, List.length_cons]; congr 1; omega
    rw [e, leNat]
    nlinarith

/-- Reading back the bytes of a number, least significant first. -/
theorem fromLe64_le64 (v : Word64) : fromLe64 (le64 v) = v := by
  apply BitVec.eq_of_toNat_eq
  have := v.isLt
  simp only [fromLe64, le64, List.range, List.range.loop, List.map, leNat, BitVec.extractLsb'_toNat, BitVec.toNat_ofNat,
    Nat.shiftRight_eq_div_pow]
  omega

/-- A keystream block is a 64-bit number (41_permutation.md R68). -/
theorem block_lt (p : Params) (key : List Byte) (i : Nat) : block p key i < 2 ^ 64 := by
  have := leNat_lt ((List.range ksBlock).map fun k => ksByte p key (ksBlock * i + k))
  rwa [List.length_map, List.length_range] at this

@[simp] theorem length_rngBytes (n : Nat) (d : Devices) : (rngBytes n d).length = n := by simp [rngBytes]

@[simp] theorem getElem_rngBytes (n : Nat) (d : Devices) (i : Nat) (h : i < (rngBytes n d).length) :
    (rngBytes n d)[i] = rngByteAt d i := by simp [rngBytes]

@[simp] theorem length_indexSeq (p : Params) (key : List Byte) (n : Nat) : (indexSeq p key n).length = n := by simp [indexSeq]

@[simp] theorem length_xorLayer (mask key s : List Byte) : (xorLayer mask key s).length = s.length := by simp [xorLayer]

theorem getElem_xorLayer (mask key s : List Byte) (i : Nat) (h : i < (xorLayer mask key s).length) :
    (xorLayer mask key s)[i] =
      s[i]'(by simpa using h) ^^^ mask.getD (i % maskBytes) 0 ^^^ key.getD (i % key.length) 0 := by simp [xorLayer]

@[simp] theorem length_frame (h : Word64) (mask ct : List Byte) : (frame h mask ct).length = 8 + mask.length + ct.length := by
  simp [frame, Nat.add_assoc]

@[simp] theorem length_envelopeOf (s : State) : (envelopeOf s).length = 24 + s.len.toNat := by
  simp [envelopeOf, content, lenNat, bufRange, maskBytes]

@[simp] theorem length_swapBytes (b : List Byte) (i j : Nat) : (swapBytes b i j).length = b.length := by simp [swapBytes]

@[simp] theorem length_swapStep (J : List Nat) (b : List Byte) (i : Nat) : (swapStep J b i).length = b.length := by
  unfold swapStep; split <;> simp

theorem length_foldl_swapStep (J : List Nat) (is : List Nat) (b : List Byte) : (is.foldl (swapStep J) b).length = b.length := by
  induction is generalizing b with
  | nil => rfl
  | cons i is ih => simp [ih]

@[simp] theorem length_permuteBytes (d : Direction) (J : List Nat) (b : List Byte) : (permuteBytes d J b).length = b.length := by
  cases d
  · exact length_foldl_swapStep J _ b
  · exact length_foldl_swapStep J _ b

/-- Every index of the replay array is below `n` (R69). -/
theorem indexSeq_getD_lt (p : Params) (key : List Byte) (n i : Nat) (h : i < n) : (indexSeq p key n).getD i i < n := by
  have hn : 0 < n := by omega
  simp [indexSeq, h, Nat.mod_lt _ hn]

@[simp] theorem toList_maskOf (b : List Byte) (h : b.length = 16) : (maskOf b).toList = b := by
  apply List.ext_getElem
  · simp [h]
  · intro i h1 h2
    simp [maskOf, h2]

end Sys2Proof.Machine
end

