-- ==== Sys2Proof/Laws/State.lean ====
section
/-!
SUPPORT. What each named operation does to each field of State: one lemma per field per operation, so that no later proof unfolds one.
-/

namespace Sys2Proof.Machine

open Sys2Proof

/-! #### `raise` -/

@[simp] theorem raise_key (e : ErrCode) (s : State) : (raise e s).key = s.key := rfl
@[simp] theorem raise_klen (e : ErrCode) (s : State) : (raise e s).klen = s.klen := rfl
@[simp] theorem raise_buf (e : ErrCode) (s : State) : (raise e s).buf = s.buf := rfl
@[simp] theorem raise_len (e : ErrCode) (s : State) : (raise e s).len = s.len := rfl
@[simp] theorem raise_acc (e : ErrCode) (s : State) : (raise e s).acc = s.acc := rfl
@[simp] theorem raise_emb (e : ErrCode) (s : State) : (raise e s).emb = s.emb := rfl
@[simp] theorem raise_mask (e : ErrCode) (s : State) : (raise e s).mask = s.mask := rfl
@[simp] theorem raise_err (e : ErrCode) (s : State) : (raise e s).err = e := rfl
@[simp] theorem raise_ok (e : ErrCode) (s : State) : (raise e s).ok = false := rfl
@[simp] theorem raise_params (e : ErrCode) (s : State) : (raise e s).params = s.params := rfl
@[simp] theorem raise_host (e : ErrCode) (s : State) : (raise e s).host = s.host := rfl
@[simp] theorem raise_dev (e : ErrCode) (s : State) : (raise e s).dev = s.dev := rfl
@[simp] theorem raise_free (e : ErrCode) (s : State) : (raise e s).free = s.free := rfl

/-! #### `finish` -/

@[simp] theorem finish_key (b : Bool) (s : State) : (finish b s).key = s.key := rfl
@[simp] theorem finish_klen (b : Bool) (s : State) : (finish b s).klen = s.klen := rfl
@[simp] theorem finish_buf (b : Bool) (s : State) : (finish b s).buf = s.buf := rfl
@[simp] theorem finish_len (b : Bool) (s : State) : (finish b s).len = s.len := rfl
@[simp] theorem finish_acc (b : Bool) (s : State) : (finish b s).acc = s.acc := rfl
@[simp] theorem finish_emb (b : Bool) (s : State) : (finish b s).emb = s.emb := rfl
@[simp] theorem finish_mask (b : Bool) (s : State) : (finish b s).mask = s.mask := rfl
@[simp] theorem finish_err (b : Bool) (s : State) : (finish b s).err = .noError := rfl
@[simp] theorem finish_ok (b : Bool) (s : State) : (finish b s).ok = b := rfl
@[simp] theorem finish_params (b : Bool) (s : State) : (finish b s).params = s.params := rfl
@[simp] theorem finish_host (b : Bool) (s : State) : (finish b s).host = s.host := rfl
@[simp] theorem finish_dev (b : Bool) (s : State) : (finish b s).dev = s.dev := rfl
@[simp] theorem finish_free (b : Bool) (s : State) : (finish b s).free = s.free := rfl

/-! #### `finishOpen` -/

@[simp] theorem finishOpen_key (s : State) : (finishOpen s).key = s.key := rfl
@[simp] theorem finishOpen_klen (s : State) : (finishOpen s).klen = s.klen := rfl
@[simp] theorem finishOpen_buf (s : State) : (finishOpen s).buf = s.buf := rfl
@[simp] theorem finishOpen_len (s : State) : (finishOpen s).len = s.len := rfl
@[simp] theorem finishOpen_acc (s : State) : (finishOpen s).acc = s.acc := rfl
@[simp] theorem finishOpen_emb (s : State) : (finishOpen s).emb = s.emb := rfl
@[simp] theorem finishOpen_mask (s : State) : (finishOpen s).mask = s.mask := rfl
@[simp] theorem finishOpen_err (s : State) : (finishOpen s).err = .noError := rfl
@[simp] theorem finishOpen_ok (s : State) : (finishOpen s).ok = s.ok := rfl
@[simp] theorem finishOpen_params (s : State) : (finishOpen s).params = s.params := rfl
@[simp] theorem finishOpen_host (s : State) : (finishOpen s).host = s.host := rfl
@[simp] theorem finishOpen_dev (s : State) : (finishOpen s).dev = s.dev := rfl
@[simp] theorem finishOpen_free (s : State) : (finishOpen s).free = s.free := rfl

/-! #### `note` -/

@[simp] theorem note_key (ops : List PortOp) (s : State) : (note ops s).key = s.key := rfl
@[simp] theorem note_klen (ops : List PortOp) (s : State) : (note ops s).klen = s.klen := rfl
@[simp] theorem note_buf (ops : List PortOp) (s : State) : (note ops s).buf = s.buf := rfl
@[simp] theorem note_len (ops : List PortOp) (s : State) : (note ops s).len = s.len := rfl
@[simp] theorem note_acc (ops : List PortOp) (s : State) : (note ops s).acc = s.acc := rfl
@[simp] theorem note_emb (ops : List PortOp) (s : State) : (note ops s).emb = s.emb := rfl
@[simp] theorem note_mask (ops : List PortOp) (s : State) : (note ops s).mask = s.mask := rfl
@[simp] theorem note_err (ops : List PortOp) (s : State) : (note ops s).err = s.err := rfl
@[simp] theorem note_ok (ops : List PortOp) (s : State) : (note ops s).ok = s.ok := rfl
@[simp] theorem note_params (ops : List PortOp) (s : State) : (note ops s).params = s.params := rfl
@[simp] theorem note_host (ops : List PortOp) (s : State) : (note ops s).host = s.host := rfl
@[simp] theorem note_dev (ops : List PortOp) (s : State) : (note ops s).dev = { s.dev with traffic := s.dev.traffic ++ ops } := rfl
@[simp] theorem note_free (ops : List PortOp) (s : State) : (note ops s).free = s.free := rfl

/-! #### `writeBuf` -/

@[simp] theorem writeBuf_key (base : Nat) (bytes : List Byte) (s : State) : (writeBuf base bytes s).key = s.key := rfl
@[simp] theorem writeBuf_klen (base : Nat) (bytes : List Byte) (s : State) : (writeBuf base bytes s).klen = s.klen := rfl
@[simp] theorem writeBuf_buf (base : Nat) (bytes : List Byte) (s : State) : (writeBuf base bytes s).buf = memPutAll s.buf base bytes := rfl
@[simp] theorem writeBuf_len (base : Nat) (bytes : List Byte) (s : State) : (writeBuf base bytes s).len = s.len := rfl
@[simp] theorem writeBuf_acc (base : Nat) (bytes : List Byte) (s : State) : (writeBuf base bytes s).acc = s.acc := rfl
@[simp] theorem writeBuf_emb (base : Nat) (bytes : List Byte) (s : State) : (writeBuf base bytes s).emb = s.emb := rfl
@[simp] theorem writeBuf_mask (base : Nat) (bytes : List Byte) (s : State) : (writeBuf base bytes s).mask = s.mask := rfl
@[simp] theorem writeBuf_err (base : Nat) (bytes : List Byte) (s : State) : (writeBuf base bytes s).err = s.err := rfl
@[simp] theorem writeBuf_ok (base : Nat) (bytes : List Byte) (s : State) : (writeBuf base bytes s).ok = s.ok := rfl
@[simp] theorem writeBuf_params (base : Nat) (bytes : List Byte) (s : State) : (writeBuf base bytes s).params = s.params := rfl
@[simp] theorem writeBuf_host (base : Nat) (bytes : List Byte) (s : State) : (writeBuf base bytes s).host = s.host := rfl
@[simp] theorem writeBuf_dev (base : Nat) (bytes : List Byte) (s : State) : (writeBuf base bytes s).dev = s.dev := rfl
@[simp] theorem writeBuf_free (base : Nat) (bytes : List Byte) (s : State) : (writeBuf base bytes s).free = s.free := rfl

/-! #### `writeKey` -/

@[simp] theorem writeKey_key (base : Nat) (bytes : List Byte) (s : State) : (writeKey base bytes s).key = memPutAll s.key base bytes := rfl
@[simp] theorem writeKey_klen (base : Nat) (bytes : List Byte) (s : State) : (writeKey base bytes s).klen = s.klen := rfl
@[simp] theorem writeKey_buf (base : Nat) (bytes : List Byte) (s : State) : (writeKey base bytes s).buf = s.buf := rfl
@[simp] theorem writeKey_len (base : Nat) (bytes : List Byte) (s : State) : (writeKey base bytes s).len = s.len := rfl
@[simp] theorem writeKey_acc (base : Nat) (bytes : List Byte) (s : State) : (writeKey base bytes s).acc = s.acc := rfl
@[simp] theorem writeKey_emb (base : Nat) (bytes : List Byte) (s : State) : (writeKey base bytes s).emb = s.emb := rfl
@[simp] theorem writeKey_mask (base : Nat) (bytes : List Byte) (s : State) : (writeKey base bytes s).mask = s.mask := rfl
@[simp] theorem writeKey_err (base : Nat) (bytes : List Byte) (s : State) : (writeKey base bytes s).err = s.err := rfl
@[simp] theorem writeKey_ok (base : Nat) (bytes : List Byte) (s : State) : (writeKey base bytes s).ok = s.ok := rfl
@[simp] theorem writeKey_params (base : Nat) (bytes : List Byte) (s : State) : (writeKey base bytes s).params = s.params := rfl
@[simp] theorem writeKey_host (base : Nat) (bytes : List Byte) (s : State) : (writeKey base bytes s).host = s.host := rfl
@[simp] theorem writeKey_dev (base : Nat) (bytes : List Byte) (s : State) : (writeKey base bytes s).dev = s.dev := rfl
@[simp] theorem writeKey_free (base : Nat) (bytes : List Byte) (s : State) : (writeKey base bytes s).free = s.free := rfl

/-! #### `drawRng` -/

@[simp] theorem drawRng_key (n : Nat) (s : State) : (drawRng n s).key = s.key := rfl
@[simp] theorem drawRng_klen (n : Nat) (s : State) : (drawRng n s).klen = s.klen := rfl
@[simp] theorem drawRng_buf (n : Nat) (s : State) : (drawRng n s).buf = s.buf := rfl
@[simp] theorem drawRng_len (n : Nat) (s : State) : (drawRng n s).len = s.len := rfl
@[simp] theorem drawRng_acc (n : Nat) (s : State) : (drawRng n s).acc = s.acc := rfl
@[simp] theorem drawRng_emb (n : Nat) (s : State) : (drawRng n s).emb = s.emb := rfl
@[simp] theorem drawRng_mask (n : Nat) (s : State) : (drawRng n s).mask = s.mask := rfl
@[simp] theorem drawRng_err (n : Nat) (s : State) : (drawRng n s).err = s.err := rfl
@[simp] theorem drawRng_ok (n : Nat) (s : State) : (drawRng n s).ok = s.ok := rfl
@[simp] theorem drawRng_params (n : Nat) (s : State) : (drawRng n s).params = s.params := rfl
@[simp] theorem drawRng_host (n : Nat) (s : State) : (drawRng n s).host = s.host := rfl
@[simp] theorem drawRng_dev (n : Nat) (s : State) : (drawRng n s).dev = { rngAdvance n s.dev with traffic := s.dev.traffic ++ (rngBytes n s.dev).map .rngDraw } := rfl
@[simp] theorem drawRng_free (n : Nat) (s : State) : (drawRng n s).free = s.free := rfl

/-! #### `respond` -/

@[simp] theorem respond_key (r : Response) (s : State) : (respond r s).key = s.key := rfl
@[simp] theorem respond_klen (r : Response) (s : State) : (respond r s).klen = s.klen := rfl
@[simp] theorem respond_buf (r : Response) (s : State) : (respond r s).buf = s.buf := rfl
@[simp] theorem respond_len (r : Response) (s : State) : (respond r s).len = s.len := rfl
@[simp] theorem respond_acc (r : Response) (s : State) : (respond r s).acc = s.acc := rfl
@[simp] theorem respond_emb (r : Response) (s : State) : (respond r s).emb = s.emb := rfl
@[simp] theorem respond_mask (r : Response) (s : State) : (respond r s).mask = s.mask := rfl
@[simp] theorem respond_err (r : Response) (s : State) : (respond r s).err = s.err := rfl
@[simp] theorem respond_ok (r : Response) (s : State) : (respond r s).ok = s.ok := rfl
@[simp] theorem respond_params (r : Response) (s : State) : (respond r s).params = s.params := rfl
@[simp] theorem respond_host (r : Response) (s : State) : (respond r s).host = { s.host with response := some r } := rfl
@[simp] theorem respond_dev (r : Response) (s : State) : (respond r s).dev = s.dev := rfl
@[simp] theorem respond_free (r : Response) (s : State) : (respond r s).free = s.free := rfl

/-! #### `dequeue` -/

@[simp] theorem dequeue_key (s : State) : (dequeue s).key = s.key := rfl
@[simp] theorem dequeue_klen (s : State) : (dequeue s).klen = s.klen := rfl
@[simp] theorem dequeue_buf (s : State) : (dequeue s).buf = s.buf := rfl
@[simp] theorem dequeue_len (s : State) : (dequeue s).len = s.len := rfl
@[simp] theorem dequeue_acc (s : State) : (dequeue s).acc = s.acc := rfl
@[simp] theorem dequeue_emb (s : State) : (dequeue s).emb = s.emb := rfl
@[simp] theorem dequeue_mask (s : State) : (dequeue s).mask = s.mask := rfl
@[simp] theorem dequeue_err (s : State) : (dequeue s).err = s.err := rfl
@[simp] theorem dequeue_ok (s : State) : (dequeue s).ok = s.ok := rfl
@[simp] theorem dequeue_params (s : State) : (dequeue s).params = s.params := rfl
@[simp] theorem dequeue_host (s : State) : (dequeue s).host = { s.host with pending := s.host.pending.tail } := rfl
@[simp] theorem dequeue_dev (s : State) : (dequeue s).dev = s.dev := rfl
@[simp] theorem dequeue_free (s : State) : (dequeue s).free = s.free := rfl

/-! #### `enqueueFirst` -/

@[simp] theorem enqueueFirst_key (ev : HostEvent) (s : State) : (enqueueFirst ev s).key = s.key := rfl
@[simp] theorem enqueueFirst_klen (ev : HostEvent) (s : State) : (enqueueFirst ev s).klen = s.klen := rfl
@[simp] theorem enqueueFirst_buf (ev : HostEvent) (s : State) : (enqueueFirst ev s).buf = s.buf := rfl
@[simp] theorem enqueueFirst_len (ev : HostEvent) (s : State) : (enqueueFirst ev s).len = s.len := rfl
@[simp] theorem enqueueFirst_acc (ev : HostEvent) (s : State) : (enqueueFirst ev s).acc = s.acc := rfl
@[simp] theorem enqueueFirst_emb (ev : HostEvent) (s : State) : (enqueueFirst ev s).emb = s.emb := rfl
@[simp] theorem enqueueFirst_mask (ev : HostEvent) (s : State) : (enqueueFirst ev s).mask = s.mask := rfl
@[simp] theorem enqueueFirst_err (ev : HostEvent) (s : State) : (enqueueFirst ev s).err = s.err := rfl
@[simp] theorem enqueueFirst_ok (ev : HostEvent) (s : State) : (enqueueFirst ev s).ok = s.ok := rfl
@[simp] theorem enqueueFirst_params (ev : HostEvent) (s : State) : (enqueueFirst ev s).params = s.params := rfl
@[simp] theorem enqueueFirst_host (ev : HostEvent) (s : State) : (enqueueFirst ev s).host = { s.host with pending := ev :: s.host.pending } := rfl
@[simp] theorem enqueueFirst_dev (ev : HostEvent) (s : State) : (enqueueFirst ev s).dev = s.dev := rfl
@[simp] theorem enqueueFirst_free (ev : HostEvent) (s : State) : (enqueueFirst ev s).free = s.free := rfl
/-! ### The transforms of the commands -/

/-! #### `permuteContent` -/

@[simp] theorem permuteContent_key (d : Direction) (s : State) : (permuteContent d s).key = s.key := by
  simp [permuteContent]
@[simp] theorem permuteContent_klen (d : Direction) (s : State) : (permuteContent d s).klen = s.klen := by
  simp [permuteContent]
@[simp] theorem permuteContent_buf (d : Direction) (s : State) : (permuteContent d s).buf = memPutAll s.buf 0 (permuteBytes d (indexSeq s.params (keyOf s) (lenNat s)) (content s)) := by
  simp [permuteContent]
@[simp] theorem permuteContent_len (d : Direction) (s : State) : (permuteContent d s).len = s.len := by
  simp [permuteContent]
@[simp] theorem permuteContent_acc (d : Direction) (s : State) : (permuteContent d s).acc = s.acc := by
  simp [permuteContent]
@[simp] theorem permuteContent_emb (d : Direction) (s : State) : (permuteContent d s).emb = s.emb := by
  simp [permuteContent]
@[simp] theorem permuteContent_mask (d : Direction) (s : State) : (permuteContent d s).mask = s.mask := by
  simp [permuteContent]
@[simp] theorem permuteContent_err (d : Direction) (s : State) : (permuteContent d s).err = s.err := by
  simp [permuteContent]
@[simp] theorem permuteContent_ok (d : Direction) (s : State) : (permuteContent d s).ok = s.ok := by
  simp [permuteContent]
@[simp] theorem permuteContent_params (d : Direction) (s : State) : (permuteContent d s).params = s.params := by
  simp [permuteContent]
@[simp] theorem permuteContent_host (d : Direction) (s : State) : (permuteContent d s).host = s.host := by
  simp [permuteContent]
@[simp] theorem permuteContent_dev (d : Direction) (s : State) : (permuteContent d s).dev = { s.dev with traffic := s.dev.traffic ++ ksTraffic s.params (keyOf s) (lenNat s) } := by
  simp [permuteContent]
@[simp] theorem permuteContent_free (d : Direction) (s : State) : (permuteContent d s).free = s.free := by
  simp [permuteContent]

/-! #### `buildContent` -/

@[simp] theorem buildContent_key (s : State) : (buildContent s).key = s.key := by
  simp [buildContent]
@[simp] theorem buildContent_klen (s : State) : (buildContent s).klen = s.klen := by
  simp [buildContent]
@[simp] theorem buildContent_buf (s : State) : (buildContent s).buf = memPutAll s.buf 0 (envelopeOf s) := by
  simp [buildContent]
@[simp] theorem buildContent_len (s : State) : (buildContent s).len = BitVec.ofNat 32 (lenNat s + hdrBytes) := by
  simp [buildContent]
@[simp] theorem buildContent_acc (s : State) : (buildContent s).acc = checksum s.params (content s) := by
  simp [buildContent]
@[simp] theorem buildContent_emb (s : State) : (buildContent s).emb = s.emb := by
  simp [buildContent]
@[simp] theorem buildContent_mask (s : State) : (buildContent s).mask = maskOf (rngBytes maskBytes s.dev) := by
  simp [buildContent]
@[simp] theorem buildContent_err (s : State) : (buildContent s).err = s.err := by
  simp [buildContent]
@[simp] theorem buildContent_ok (s : State) : (buildContent s).ok = s.ok := by
  simp [buildContent]
@[simp] theorem buildContent_params (s : State) : (buildContent s).params = s.params := by
  simp [buildContent]
@[simp] theorem buildContent_host (s : State) : (buildContent s).host = s.host := by
  simp [buildContent]
@[simp] theorem buildContent_dev (s : State) : (buildContent s).dev = { rngAdvance maskBytes s.dev with traffic := s.dev.traffic ++ (rngBytes maskBytes s.dev).map .rngDraw } := by
  simp [buildContent]
@[simp] theorem buildContent_free (s : State) : (buildContent s).free = s.free := by
  simp [buildContent]

/-! #### `openContent` -/

@[simp] theorem openContent_key (s : State) : (openContent s).key = s.key := by
  simp [openContent]
@[simp] theorem openContent_klen (s : State) : (openContent s).klen = s.klen := by
  simp [openContent]
@[simp] theorem openContent_buf (s : State) : (openContent s).buf = memPutAll s.buf 0 (recoveredMessage (keyOf s) (content s) ++ unspecifiedTail s) := by
  simp [openContent]
@[simp] theorem openContent_len (s : State) : (openContent s).len = BitVec.ofNat 32 (lenNat s - hdrBytes) := by
  simp [openContent]
@[simp] theorem openContent_acc (s : State) : (openContent s).acc = checksum s.params (recoveredMessage (keyOf s) (content s)) := by
  simp [openContent]
@[simp] theorem openContent_emb (s : State) : (openContent s).emb = parseChecksum (content s) := by
  simp [openContent]
@[simp] theorem openContent_mask (s : State) : (openContent s).mask = maskOf (parseMask (content s)) := by
  simp [openContent]
@[simp] theorem openContent_err (s : State) : (openContent s).err = s.err := by
  simp [openContent]
@[simp] theorem openContent_ok (s : State) : (openContent s).ok =
    (checksum s.params (recoveredMessage (keyOf s) (content s)) == parseChecksum (content s)) := by
  simp [openContent]
@[simp] theorem openContent_params (s : State) : (openContent s).params = s.params := by
  simp [openContent]
@[simp] theorem openContent_host (s : State) : (openContent s).host = s.host := by
  simp [openContent]
@[simp] theorem openContent_dev (s : State) : (openContent s).dev = s.dev := by
  simp [openContent]
@[simp] theorem openContent_free (s : State) : (openContent s).free = { s.free with tails := s.free.tails + 1 } := by
  simp [openContent]

/-! #### `generateKey` -/

@[simp] theorem generateKey_key (s : State) : (generateKey s).key = memPutAll s.key 0 (rngBytes genkeyLen s.dev) := by
  simp [generateKey]
@[simp] theorem generateKey_klen (s : State) : (generateKey s).klen = 256 := by
  simp [generateKey]
@[simp] theorem generateKey_buf (s : State) : (generateKey s).buf = s.buf := by
  simp [generateKey]
@[simp] theorem generateKey_len (s : State) : (generateKey s).len = s.len := by
  simp [generateKey]
@[simp] theorem generateKey_acc (s : State) : (generateKey s).acc = s.acc := by
  simp [generateKey]
@[simp] theorem generateKey_emb (s : State) : (generateKey s).emb = s.emb := by
  simp [generateKey]
@[simp] theorem generateKey_mask (s : State) : (generateKey s).mask = s.mask := by
  simp [generateKey]
@[simp] theorem generateKey_err (s : State) : (generateKey s).err = s.err := by
  simp [generateKey]
@[simp] theorem generateKey_ok (s : State) : (generateKey s).ok = s.ok := by
  simp [generateKey]
@[simp] theorem generateKey_params (s : State) : (generateKey s).params = s.params := by
  simp [generateKey]
@[simp] theorem generateKey_host (s : State) : (generateKey s).host = s.host := by
  simp [generateKey]
@[simp] theorem generateKey_dev (s : State) : (generateKey s).dev = { rngAdvance genkeyLen s.dev with traffic := s.dev.traffic ++ (rngBytes genkeyLen s.dev).map .rngDraw } := by
  simp [generateKey]
@[simp] theorem generateKey_free (s : State) : (generateKey s).free = s.free := by
  simp [generateKey]
/-! ### Reads depend on a memory and the reset count only -/

theorem keyByte_congr {s t : State} (hk : t.key = s.key) (hf : t.free.resets = s.free.resets) (a : Nat) :
    keyByte t a = keyByte s a := by
  simp [keyByte, hk, hf]

theorem bufByte_congr {s t : State} (hb : t.buf = s.buf) (hf : t.free.resets = s.free.resets) (a : Nat) :
    bufByte t a = bufByte s a := by
  simp [bufByte, hb, hf]

end Sys2Proof.Machine
end

