-- ==== Sys2Proof/Laws/Memory.lean ====
section
/-!
SUPPORT. The laws of byte memories: a read after a write, the canonical form, and what a write to BUF or KEY leaves alone.
-/

namespace Sys2Proof.Machine

open Sys2Proof

theorem memFind_memPut (m : Memory) (a b : Nat) (v : Byte) :
    memFind (memPut m a v) b = if a = b then some v else memFind m b := by
  induction m with
  | nil => simp [memPut, memFind]
  | cons c rest ih =>
    obtain ⟨c, x⟩ := c
    simp only [memPut]
    split
    · simp only [memFind]
    · split
      · next h => subst h; simp only [memFind]; split <;> simp_all
      · simp only [memFind, ih]; split <;> split <;> simp_all

theorem memFind_memPutAll (bs : List Byte) (m : Memory) (base a : Nat) :
    memFind (memPutAll m base bs) a =
      if h : base ≤ a ∧ a < base + bs.length then some (bs[a - base]'(by omega)) else memFind m a := by
  induction bs generalizing m base with
  | nil => simp [memPutAll]
  | cons v vs ih =>
    simp only [memPutAll, ih, memFind_memPut, List.length_cons]
    by_cases h : base + 1 ≤ a ∧ a < base + 1 + vs.length
    · have h' : base ≤ a ∧ a < base + (vs.length + 1) := by omega
      have e : a - base = (a - (base + 1)) + 1 := by omega
      simp [h, h', e]
    · by_cases e : base = a
      · subst e; simp
      · have h' : ¬ (base ≤ a ∧ a < base + (vs.length + 1)) := by omega
        rw [dif_neg h, dif_neg h', if_neg e]

theorem memWfFrom_mono (m : Memory) {lo lo' : Nat} (size : Nat) (h : lo ≤ lo') (hw : memWfFrom lo' size m = true) :
    memWfFrom lo size m = true := by
  cases m with
  | nil => rfl
  | cons c rest => obtain ⟨c, x⟩ := c; simp [memWfFrom] at hw ⊢; exact ⟨⟨by omega, hw.1.2⟩, hw.2⟩

theorem memWfFrom_memPut (m : Memory) (lo size a : Nat) (v : Byte) (hl : lo ≤ a) (ha : a < size)
    (hw : memWfFrom lo size m = true) : memWfFrom lo size (memPut m a v) = true := by
  induction m generalizing lo with
  | nil => simp [memPut, memWfFrom, hl, ha]
  | cons c rest ih =>
    obtain ⟨c, x⟩ := c
    simp [memWfFrom] at hw
    simp only [memPut]
    split
    · next h => simp [memWfFrom, hw]; omega
    · split
      · next h => subst h; simp [memWfFrom, hw]
      · simp [memWfFrom, hw]; exact ih (c + 1) (by omega) hw.2

/-- A write inside the memory keeps the canonical form. -/
theorem memWf_memPut (m : Memory) (size a : Nat) (v : Byte) (ha : a < size) (hw : memWf size m = true) :
    memWf size (memPut m a v) = true := memWfFrom_memPut m 0 size a v (Nat.zero_le _) ha hw

/-- A write of consecutive bytes inside the memory keeps the canonical form. -/
theorem memWf_memPutAll (bs : List Byte) (m : Memory) (size base : Nat) (h : base + bs.length ≤ size)
    (hw : memWf size m = true) : memWf size (memPutAll m base bs) = true := by
  induction bs generalizing m base with
  | nil => exact hw
  | cons v vs ih =>
    simp only [List.length_cons] at h
    exact ih _ _ (by omega) (memWf_memPut m size base v (by omega) hw)

/-- The canonical form makes equal contents equal data. -/
theorem memFind_below (m : Memory) (lo size a : Nat) (hw : memWfFrom lo size m = true) (ha : a < lo) : memFind m a = none := by
  induction m generalizing lo with
  | nil => rfl
  | cons c rest ih =>
    obtain ⟨c, x⟩ := c
    simp [memWfFrom] at hw
    simp only [memFind]
    rw [if_neg (by omega)]
    exact ih (c + 1) hw.2 (by omega)

theorem memory_ext (m m' : Memory) (lo size : Nat) (hw : memWfFrom lo size m = true) (hw' : memWfFrom lo size m' = true)
    (h : ∀ a, memFind m a = memFind m' a) : m = m' := by
  induction m generalizing lo m' with
  | nil =>
    cases m' with
    | nil => rfl
    | cons c rest => have := h c.1; simp [memFind] at this
  | cons c rest ih =>
    obtain ⟨c, x⟩ := c
    cases m' with
    | nil => have := h c; simp [memFind] at this
    | cons c' rest' =>
      obtain ⟨c', x'⟩ := c'
      simp [memWfFrom] at hw hw'
      have hc := h c
      have hc' := h c'
      have e : c = c' := by
        rcases Nat.lt_trichotomy c c' with g | g | g
        · rw [memFind_below ((c', x') :: rest') c' size c (by simp [memWfFrom, hw']) g] at hc
          simp [memFind] at hc
        · exact g
        · rw [memFind_below ((c, x) :: rest) c size c' (by simp [memWfFrom, hw]) g] at hc'
          simp [memFind] at hc'
      subst e
      have ex : x = x' := by simpa [memFind] using hc
      subst ex
      have : rest = rest' := by
        refine ih rest' (c + 1) hw.2 hw'.2 fun a => ?_
        by_cases ha : a < c + 1
        · rw [memFind_below _ _ _ _ hw.2 ha, memFind_below _ _ _ _ hw'.2 ha]
        · have := h a
          simp only [memFind] at this
          rwa [if_neg (by omega), if_neg (by omega)] at this
      rw [this]

/-! ### Reads after writes, in the terms of a state -/

/-- What `BUF[a]` is after bytes are written at `BUF[base ..]`. -/
theorem bufByte_of_putAll {s t : State} {base : Nat} {bs : List Byte} (hb : t.buf = memPutAll s.buf base bs)
    (hf : t.free.resets = s.free.resets) (a : Nat) :
    bufByte t a = if h : base ≤ a ∧ a < base + bs.length then bs[a - base]'(by omega) else bufByte s a := by
  simp only [bufByte, hb, hf, memFind_memPutAll]
  split <;> simp

/-- What `KEY[a]` is after bytes are written at `KEY[base ..]`. -/
theorem keyByte_of_putAll {s t : State} {base : Nat} {bs : List Byte} (hb : t.key = memPutAll s.key base bs)
    (hf : t.free.resets = s.free.resets) (a : Nat) :
    keyByte t a = if h : base ≤ a ∧ a < base + bs.length then bs[a - base]'(by omega) else keyByte s a := by
  simp only [keyByte, hb, hf, memFind_memPutAll]
  split <;> simp

@[simp] theorem length_bufRange (s : State) (base n : Nat) : (bufRange s base n).length = n := by simp [bufRange]

@[simp] theorem getElem_bufRange (s : State) (base n i : Nat) (h : i < (bufRange s base n).length) :
    (bufRange s base n)[i] = bufByte s (base + i) := by simp [bufRange]

@[simp] theorem length_content (s : State) : (content s).length = s.len.toNat := by simp [content, lenNat]

@[simp] theorem getElem_content (s : State) (i : Nat) (h : i < (content s).length) : (content s)[i] = bufByte s i := by
  simp [content]

@[simp] theorem length_keyOf (s : State) : (keyOf s).length = s.klen.toNat := by simp [keyOf, klenNat]

@[simp] theorem getElem_keyOf (s : State) (i : Nat) (h : i < (keyOf s).length) : (keyOf s)[i] = keyByte s i := by
  simp [keyOf]

theorem content_eq_map (s : State) : content s = (List.range s.len.toNat).map (bufByte s) := by
  simp [content, bufRange, lenNat]

theorem keyOf_eq_map (s : State) : keyOf s = (List.range s.klen.toNat).map (keyByte s) := rfl

/-- After `BUF[0 ..]` is written and LEN is what was written, the content is what was written. -/
theorem content_of_putAll {s t : State} {bs rest : List Byte} (hb : t.buf = memPutAll s.buf 0 (bs ++ rest))
    (hf : t.free.resets = s.free.resets) (hl : t.len.toNat = bs.length) : content t = bs := by
  apply List.ext_getElem
  · simp [hl]
  · intro i h1 h2
    rw [getElem_content, bufByte_of_putAll hb hf]
    simp [h2]
    omega

/-- The content depends on LEN and on the bytes below it. -/
theorem content_congr {s t : State} (hl : t.len = s.len) (hb : ∀ a < s.len.toNat, bufByte t a = bufByte s a) :
    content t = content s := by
  apply List.ext_getElem
  · simp [hl]
  · intro i h1 h2
    simp only [length_content] at h2
    rw [getElem_content, getElem_content]
    exact hb i h2

/-- The key depends on KLEN and on the bytes below it. -/
theorem keyOf_congr {s t : State} (hl : t.klen = s.klen) (hb : ∀ a < s.klen.toNat, keyByte t a = keyByte s a) :
    keyOf t = keyOf s := by
  apply List.ext_getElem
  · simp [hl]
  · intro i h1 h2
    simp only [length_keyOf] at h2
    rw [getElem_keyOf, getElem_keyOf]
    exact hb i h2

theorem keyOf_same {s t : State} (hl : t.klen = s.klen) (hk : t.key = s.key) (hf : t.free.resets = s.free.resets) :
    keyOf t = keyOf s := keyOf_congr hl fun a _ => keyByte_congr hk hf a

theorem content_same {s t : State} (hl : t.len = s.len) (hb : t.buf = s.buf) (hf : t.free.resets = s.free.resets) :
    content t = content s := content_congr hl fun a _ => bufByte_congr hb hf a

/-! ### Operations that touch neither memory -/

@[simp] theorem keyByte_finish (b : Bool) (s : State) (a : Nat) : keyByte (finish b s) a = keyByte s a := rfl
@[simp] theorem bufByte_finish (b : Bool) (s : State) (a : Nat) : bufByte (finish b s) a = bufByte s a := rfl
@[simp] theorem keyOf_finish (b : Bool) (s : State) : keyOf (finish b s) = keyOf s := keyOf_same rfl rfl rfl
@[simp] theorem content_finish (b : Bool) (s : State) : content (finish b s) = content s := content_same rfl rfl rfl

@[simp] theorem keyByte_finishOpen (s : State) (a : Nat) : keyByte (finishOpen s) a = keyByte s a := rfl
@[simp] theorem bufByte_finishOpen (s : State) (a : Nat) : bufByte (finishOpen s) a = bufByte s a := rfl
@[simp] theorem keyOf_finishOpen (s : State) : keyOf (finishOpen s) = keyOf s := keyOf_same rfl rfl rfl
@[simp] theorem content_finishOpen (s : State) : content (finishOpen s) = content s := content_same rfl rfl rfl

@[simp] theorem keyByte_raise (e : ErrCode) (s : State) (a : Nat) : keyByte (raise e s) a = keyByte s a := rfl
@[simp] theorem bufByte_raise (e : ErrCode) (s : State) (a : Nat) : bufByte (raise e s) a = bufByte s a := rfl
@[simp] theorem keyOf_raise (e : ErrCode) (s : State) : keyOf (raise e s) = keyOf s := keyOf_same rfl rfl rfl
@[simp] theorem content_raise (e : ErrCode) (s : State) : content (raise e s) = content s := content_same rfl rfl rfl

@[simp] theorem keyByte_note (ops : List PortOp) (s : State) (a : Nat) : keyByte (note ops s) a = keyByte s a := rfl
@[simp] theorem bufByte_note (ops : List PortOp) (s : State) (a : Nat) : bufByte (note ops s) a = bufByte s a := rfl
@[simp] theorem keyOf_note (ops : List PortOp) (s : State) : keyOf (note ops s) = keyOf s := keyOf_same rfl rfl rfl
@[simp] theorem content_note (ops : List PortOp) (s : State) : content (note ops s) = content s := content_same rfl rfl rfl

@[simp] theorem keyByte_respond (r : Response) (s : State) (a : Nat) : keyByte (respond r s) a = keyByte s a := rfl
@[simp] theorem bufByte_respond (r : Response) (s : State) (a : Nat) : bufByte (respond r s) a = bufByte s a := rfl
@[simp] theorem keyOf_respond (r : Response) (s : State) : keyOf (respond r s) = keyOf s := keyOf_same rfl rfl rfl
@[simp] theorem content_respond (r : Response) (s : State) : content (respond r s) = content s := content_same rfl rfl rfl

@[simp] theorem keyByte_dequeue (s : State) (a : Nat) : keyByte (dequeue s) a = keyByte s a := rfl
@[simp] theorem bufByte_dequeue (s : State) (a : Nat) : bufByte (dequeue s) a = bufByte s a := rfl
@[simp] theorem keyOf_dequeue (s : State) : keyOf (dequeue s) = keyOf s := keyOf_same rfl rfl rfl
@[simp] theorem content_dequeue (s : State) : content (dequeue s) = content s := content_same rfl rfl rfl

@[simp] theorem keyOf_permuteContent (d : Direction) (s : State) : keyOf (permuteContent d s) = keyOf s :=
  keyOf_same (by simp) (by simp) (by simp)

@[simp] theorem keyOf_buildContent (s : State) : keyOf (buildContent s) = keyOf s := keyOf_same (by simp) (by simp) (by simp)

@[simp] theorem keyOf_openContent (s : State) : keyOf (openContent s) = keyOf s := keyOf_same (by simp) (by simp) (by simp)

end Sys2Proof.Machine
end

