-- ==== Sys2Proof/Laws/Exec.lean ====
section
/-!
SUPPORT. What each meaning can do, said once: which error, which fault, or the next state. The provers cite these and unfold no meaning.
-/

namespace Sys2Proof.Machine

open Sys2Proof

/-- KLEN is a legal key length. -/
abbrev KeyOk (s : State) : Prop := 1 ≤ s.klen.toNat ∧ s.klen.toNat ≤ 256

/-- LEN fits the buffer. -/
abbrev ContentFits (s : State) : Prop := s.len.toNat ≤ s.params.bufcap.size

/-- The envelope of the content fits the buffer. -/
abbrev EnvelopeFits (s : State) : Prop := s.len.toNat + 24 ≤ s.params.bufcap.size

theorem keySizeBad_iff (s : State) : keySizeBad s = true ↔ ¬ KeyOk s := by
  unfold keySizeBad
  rw [decide_eq_true_eq]
  simp only [klenNat, KeyOk, keyMax]
  omega

theorem dataSizeBad_iff (s : State) : dataSizeBad s = true ↔ s.len.toNat < 24 := by
  unfold dataSizeBad
  rw [decide_eq_true_eq]
  exact Iff.rfl

theorem contentOverflows_iff (s : State) : contentOverflows s = true ↔ ¬ ContentFits s := by
  unfold contentOverflows
  rw [decide_eq_true_eq]
  exact Nat.not_le.symm

theorem envelopeOverflows_iff (s : State) : envelopeOverflows s = true ↔ ¬ EnvelopeFits s := by
  unfold envelopeOverflows
  rw [decide_eq_true_eq]
  exact Nat.not_le.symm

theorem contentError_of_fits {s : State} (h : ContentFits s) : contentError s = none := by
  have := (contentOverflows_iff s).not.2 (not_not.2 h)
  simp [contentError, firstError, this]

theorem contentError_of_overflow {s : State} (h : ¬ ContentFits s) : contentError s = some .bufferOverflow := by
  simp [contentError, firstError, (contentOverflows_iff s).2 h]

theorem buildError_of_badKey {s : State} (h : ¬ KeyOk s) : buildError s = some .invalidKeySize := by
  simp [buildError, firstError, (keySizeBad_iff s).2 h]

theorem buildError_of_overflow {s : State} (hk : KeyOk s) (h : ¬ EnvelopeFits s) : buildError s = some .bufferOverflow := by
  have := (keySizeBad_iff s).not.2 (not_not.2 hk)
  simp [buildError, firstError, this, (envelopeOverflows_iff s).2 h]

theorem buildError_of_ok {s : State} (hk : KeyOk s) (h : EnvelopeFits s) : buildError s = none := by
  have h1 := (keySizeBad_iff s).not.2 (not_not.2 hk)
  have h2 := (envelopeOverflows_iff s).not.2 (not_not.2 h)
  simp [buildError, firstError, h1, h2]

theorem openError_of_badKey {s : State} (h : ¬ KeyOk s) : openError s = some .invalidKeySize := by
  simp [openError, firstError, (keySizeBad_iff s).2 h]

theorem openError_of_short {s : State} (hk : KeyOk s) (h : s.len.toNat < 24) : openError s = some .invalidDataSize := by
  have := (keySizeBad_iff s).not.2 (not_not.2 hk)
  simp [openError, firstError, this, (dataSizeBad_iff s).2 h]

theorem openError_of_overflow {s : State} (hk : KeyOk s) (hl : 24 ≤ s.len.toNat) (h : ¬ ContentFits s) :
    openError s = some .bufferOverflow := by
  have h1 := (keySizeBad_iff s).not.2 (not_not.2 hk)
  have h2 := (dataSizeBad_iff s).not.2 (by omega)
  simp [openError, firstError, h1, h2, (contentOverflows_iff s).2 h]

theorem openError_of_ok {s : State} (hk : KeyOk s) (hl : 24 ≤ s.len.toNat) (h : ContentFits s) : openError s = none := by
  have h1 := (keySizeBad_iff s).not.2 (not_not.2 hk)
  have h2 := (dataSizeBad_iff s).not.2 (by omega)
  have h3 := (contentOverflows_iff s).not.2 (not_not.2 h)
  simp [openError, firstError, h1, h2, h3]

/-! ### One lemma per meaning -/

theorem execCsum_cases (s : State) :
    (¬ ContentFits s ∧ execCsum s = .next (raise .bufferOverflow s)) ∨
    (ContentFits s ∧ execCsum s = .next (finish false { s with acc := checksum s.params (content s) })) := by
  by_cases h : ContentFits s
  · right; simp [execCsum, contentError_of_fits h, h]
  · left; simp [execCsum, contentError_of_overflow h, h]

theorem execPermute_cases (d : Direction) (s : State) :
    (¬ ContentFits s ∧ execPermute d s = .next (raise .bufferOverflow s)) ∨
    (ContentFits s ∧ s.dev.ksAnswers = false ∧ execPermute d s = .fault .ksNeverAnswers) ∨
    (ContentFits s ∧ s.dev.ksAnswers = true ∧ ¬ KeyOk s ∧
      execPermute d s = .next (raise .keystreamInitError (note [.ksInitFailed] s))) ∨
    (ContentFits s ∧ s.dev.ksAnswers = true ∧ KeyOk s ∧ execPermute d s = .next (finish false (permuteContent d s))) := by
  by_cases h : ContentFits s
  · right
    cases hk : s.dev.ksAnswers
    · left; simp [execPermute, contentError_of_fits h, h, hk]
    · right
      by_cases g : KeyOk s
      · right
        have := (keySizeBad_iff s).not.2 (not_not.2 g)
        refine ⟨h, rfl, g, ?_⟩
        simp [execPermute, contentError_of_fits h, hk, this]
      · left
        refine ⟨h, rfl, g, ?_⟩
        simp [execPermute, contentError_of_fits h, hk, (keySizeBad_iff s).2 g]
  · left; simp [execPermute, contentError_of_overflow h, h]

theorem execBuild_cases (s : State) :
    (¬ KeyOk s ∧ execBuild s = .next (raise .invalidKeySize s)) ∨
    (KeyOk s ∧ ¬ EnvelopeFits s ∧ execBuild s = .next (raise .bufferOverflow s)) ∨
    (KeyOk s ∧ EnvelopeFits s ∧ s.dev.rngAnswers = false ∧ execBuild s = .fault .rngNeverAnswers) ∨
    (KeyOk s ∧ EnvelopeFits s ∧ s.dev.rngAnswers = true ∧ execBuild s = .next (finish false (buildContent s))) := by
  by_cases hk : KeyOk s
  · right
    by_cases h : EnvelopeFits s
    · right
      cases hr : s.dev.rngAnswers
      · left; exact ⟨hk, h, rfl, by simp [execBuild, buildError_of_ok hk h, hr]⟩
      · right; exact ⟨hk, h, rfl, by simp [execBuild, buildError_of_ok hk h, hr]⟩
    · left; exact ⟨hk, h, by simp [execBuild, buildError_of_overflow hk h]⟩
  · left; exact ⟨hk, by simp [execBuild, buildError_of_badKey hk]⟩

theorem execEnc_cases (m : Mode) (s : State) :
    (¬ KeyOk s ∧ execEnc m s = .next (raise .invalidKeySize s)) ∨
    (KeyOk s ∧ ¬ EnvelopeFits s ∧ execEnc m s = .next (raise .bufferOverflow s)) ∨
    (KeyOk s ∧ EnvelopeFits s ∧ s.dev.rngAnswers = false ∧ execEnc m s = .fault .rngNeverAnswers) ∨
    (KeyOk s ∧ EnvelopeFits s ∧ s.dev.rngAnswers = true ∧ s.dev.ksAnswers = false ∧ execEnc m s = .fault .ksNeverAnswers) ∨
    (KeyOk s ∧ EnvelopeFits s ∧ s.dev.rngAnswers = true ∧ s.dev.ksAnswers = true ∧
      execEnc m s = .next (finish false (permuteContent (encDirection m) (buildContent s)))) := by
  by_cases hk : KeyOk s
  · right
    by_cases h : EnvelopeFits s
    · right
      cases hr : s.dev.rngAnswers
      · left; exact ⟨hk, h, rfl, by simp [execEnc, buildError_of_ok hk h, hr]⟩
      · right
        cases hq : s.dev.ksAnswers
        · left; exact ⟨hk, h, rfl, rfl, by simp [execEnc, buildError_of_ok hk h, hr, hq]⟩
        · right; exact ⟨hk, h, rfl, rfl, by simp [execEnc, buildError_of_ok hk h, hr, hq]⟩
    · left; exact ⟨hk, h, by simp [execEnc, buildError_of_overflow hk h]⟩
  · left; exact ⟨hk, by simp [execEnc, buildError_of_badKey hk]⟩

theorem execOpen_cases (s : State) :
    (¬ KeyOk s ∧ execOpen s = .next (raise .invalidKeySize s)) ∨
    (KeyOk s ∧ s.len.toNat < 24 ∧ execOpen s = .next (raise .invalidDataSize s)) ∨
    (KeyOk s ∧ 24 ≤ s.len.toNat ∧ ¬ ContentFits s ∧ execOpen s = .next (raise .bufferOverflow s)) ∨
    (KeyOk s ∧ 24 ≤ s.len.toNat ∧ ContentFits s ∧ execOpen s = .next (finishOpen (openContent s))) := by
  by_cases hk : KeyOk s
  · right
    rcases Nat.lt_or_ge s.len.toNat 24 with hl | hl
    · left; exact ⟨hk, hl, by simp [execOpen, openError_of_short hk hl]⟩
    · right
      by_cases h : ContentFits s
      · right; exact ⟨hk, hl, h, by simp [execOpen, openError_of_ok hk hl h]⟩
      · left; exact ⟨hk, hl, h, by simp [execOpen, openError_of_overflow hk hl h]⟩
  · left; exact ⟨hk, by simp [execOpen, openError_of_badKey hk]⟩

theorem execDec_cases (m : Mode) (s : State) :
    (¬ KeyOk s ∧ execDec m s = .next (raise .invalidKeySize s)) ∨
    (KeyOk s ∧ s.len.toNat < 24 ∧ execDec m s = .next (raise .invalidDataSize s)) ∨
    (KeyOk s ∧ 24 ≤ s.len.toNat ∧ ¬ ContentFits s ∧ execDec m s = .next (raise .bufferOverflow s)) ∨
    (KeyOk s ∧ 24 ≤ s.len.toNat ∧ ContentFits s ∧ s.dev.ksAnswers = false ∧ execDec m s = .fault .ksNeverAnswers) ∨
    (KeyOk s ∧ 24 ≤ s.len.toNat ∧ ContentFits s ∧ s.dev.ksAnswers = true ∧
      execDec m s = .next (finishOpen (openContent (permuteContent (decDirection m) s)))) := by
  by_cases hk : KeyOk s
  · right
    rcases Nat.lt_or_ge s.len.toNat 24 with hl | hl
    · left; exact ⟨hk, hl, by simp [execDec, openError_of_short hk hl]⟩
    · right
      by_cases h : ContentFits s
      · right
        cases hq : s.dev.ksAnswers
        · left; exact ⟨hk, hl, h, rfl, by simp [execDec, openError_of_ok hk hl h, hq]⟩
        · right; exact ⟨hk, hl, h, rfl, by simp [execDec, openError_of_ok hk hl h, hq]⟩
      · left; exact ⟨hk, hl, h, by simp [execDec, openError_of_overflow hk hl h]⟩
  · left; exact ⟨hk, by simp [execDec, openError_of_badKey hk]⟩

theorem execGenkey_cases (s : State) :
    (s.dev.rngAnswers = false ∧ execGenkey s = .fault .rngNeverAnswers) ∨
    (s.dev.rngAnswers = true ∧ execGenkey s = .next (finish false (generateKey s))) := by
  cases h : s.dev.rngAnswers
  · left; simp [execGenkey, h]
  · right; simp [execGenkey, h]

/-- A permutation puts the permuted content in the place of the content. -/
theorem content_permuteContent (d : Direction) (s : State) :
    content (permuteContent d s) = permuteBytes d (indexSeq s.params (keyOf s) (lenNat s)) (content s) := by
  apply content_of_putAll (rest := []) (s := s)
  · simp
  · simp
  · simp

/-- LEN after a BUILD that fits. -/
theorem len_buildContent {s : State} (h : EnvelopeFits s) : (buildContent s).len.toNat = s.len.toNat + 24 := by
  have := s.params.bufcap.fits
  simp only [EnvelopeFits] at h
  simp [lenNat, hdrBytes]
  omega

/-- The content after a BUILD that fits is the envelope. -/
theorem content_buildContent {s : State} (h : EnvelopeFits s) : content (buildContent s) = envelopeOf s := by
  apply content_of_putAll (rest := []) (s := s)
  · simp
  · simp
  · rw [len_buildContent h]; simp; omega

/-- LEN after an OPEN. -/
theorem len_openContent {s : State} : (openContent s).len.toNat = s.len.toNat - 24 := by
  have := s.len.isLt
  simp [lenNat, hdrBytes]
  omega

@[simp] theorem length_recoveredMessage (key e : List Byte) : (recoveredMessage key e).length = e.length - 24 := by
  simp [recoveredMessage, parseCiphertext, hdrBytes]

@[simp] theorem length_unspecifiedTail (s : State) : (unspecifiedTail s).length = 24 := by simp [unspecifiedTail, hdrBytes]

/-- The content after an OPEN is the recovered message. -/
theorem content_openContent (s : State) : content (openContent s) = recoveredMessage (keyOf s) (content s) := by
  apply content_of_putAll (rest := unspecifiedTail s) (s := s)
  · simp
  · simp
  · rw [len_openContent]; simp

/-! ### What the provers cite -/

theorem next_inj {a b : State} (h : (Host.Outcome.next a : Host.Outcome State Fault Refusal) = .next b) : a = b := by injection h

/-- BUILD without error. -/
theorem execBuild_next {s : State} (h1 : 1 ≤ s.klen.toNat) (h2 : s.klen.toNat ≤ 256) (h3 : EnvelopeFits s) (h4 : s.dev.rngAnswers = true) :
    execBuild s = .next (finish false (buildContent s)) := by
  rcases execBuild_cases s with ⟨g, _⟩ | ⟨_, g, _⟩ | ⟨_, _, g, _⟩ | ⟨_, hE, _, g⟩
  · exact absurd ⟨h1, h2⟩ g
  · exact absurd h3 g
  · rw [h4] at g; cases g
  · exact g

/-- A permutation without error. -/
theorem execPermute_next {d : Direction} {s : State} (h1 : 1 ≤ s.klen.toNat) (h2 : s.klen.toNat ≤ 256) (h3 : ContentFits s) (h4 : s.dev.ksAnswers = true) :
    execPermute d s = .next (finish false (permuteContent d s)) := by
  rcases execPermute_cases d s with ⟨g, _⟩ | ⟨_, g, _⟩ | ⟨_, _, g, _⟩ | ⟨_, _, _, g⟩
  · exact absurd h3 g
  · rw [h4] at g; cases g
  · exact absurd ⟨h1, h2⟩ g
  · exact g

/-- OPEN without error. -/
theorem execOpen_next {s : State} (h1 : 1 ≤ s.klen.toNat) (h2 : s.klen.toNat ≤ 256) (h3 : 24 ≤ s.len.toNat) (h4 : ContentFits s) :
    execOpen s = .next (finishOpen (openContent s)) := by
  rcases execOpen_cases s with ⟨g, _⟩ | ⟨_, g, _⟩ | ⟨_, _, g, _⟩ | ⟨_, _, _, g⟩
  · exact absurd ⟨h1, h2⟩ g
  · omega
  · exact absurd h4 g
  · exact g

/-- ENC without error. -/
theorem execEnc_next {m : Mode} {s : State} (h1 : 1 ≤ s.klen.toNat) (h2 : s.klen.toNat ≤ 256) (h3 : EnvelopeFits s) (h4 : s.dev.rngAnswers = true) (h5 : s.dev.ksAnswers = true) :
    execEnc m s = .next (finish false (permuteContent (encDirection m) (buildContent s))) := by
  rcases execEnc_cases m s with ⟨g, _⟩ | ⟨_, g, _⟩ | ⟨_, _, g, _⟩ | ⟨_, _, _, g, _⟩ | ⟨_, hE, _, _, g⟩
  · exact absurd ⟨h1, h2⟩ g
  · exact absurd h3 g
  · rw [h4] at g; cases g
  · rw [h5] at g; cases g
  · exact g

/-- DEC without error. -/
theorem execDec_next {m : Mode} {s : State} (h1 : 1 ≤ s.klen.toNat) (h2 : s.klen.toNat ≤ 256) (h3 : 24 ≤ s.len.toNat) (h4 : ContentFits s) (h5 : s.dev.ksAnswers = true) :
    execDec m s = .next (finishOpen (openContent (permuteContent (decDirection m) s))) := by
  rcases execDec_cases m s with ⟨g, _⟩ | ⟨_, g, _⟩ | ⟨_, _, g, _⟩ | ⟨_, _, _, g, _⟩ | ⟨_, _, _, _, g⟩
  · exact absurd ⟨h1, h2⟩ g
  · omega
  · exact absurd h4 g
  · rw [h5] at g; cases g
  · exact g

/-- STATUS has no influence on a permutation. -/
theorem finish_permute (d : Direction) (b : Bool) (s : State) : finish false (permuteContent d (finish b s)) = finish false (permuteContent d s) := by
  apply State.ext <;> simp [lenNat]

/-- The state after each command that ends without error, with the checks it has passed. -/
def Succeeds (i : Instr) (s t : State) : Prop :=
  match i with
  | .csum => ContentFits s ∧ t = finish false { s with acc := checksum s.params (content s) }
  | .shuf => ContentFits s ∧ KeyOk s ∧ t = finish false (permuteContent .shuffle s)
  | .unshuf => ContentFits s ∧ KeyOk s ∧ t = finish false (permuteContent .unshuffle s)
  | .build => EnvelopeFits s ∧ KeyOk s ∧ t = finish false (buildContent s)
  | .openEnv => 24 ≤ s.len.toNat ∧ ContentFits s ∧ KeyOk s ∧ t = finishOpen (openContent s)
  | .enc m => EnvelopeFits s ∧ KeyOk s ∧ t = finish false (permuteContent (encDirection m) (buildContent s))
  | .dec m => 24 ≤ s.len.toNat ∧ ContentFits s ∧ KeyOk s ∧ t = finishOpen (openContent (permuteContent (decDirection m) s))
  | .genkey => t = finish false (generateKey s)

/-- Everything a command that ends can leave: an error before any transaction, the failing `KS.init`, or success. -/
theorem exec_inv {i : Instr} {s t : State} (h : exec i s = .next t) :
    (∃ e, e ≠ .noError ∧ e ≠ .keystreamInitError ∧ t = raise e s) ∨
    ((i = .shuf ∨ i = .unshuf) ∧ t = raise .keystreamInitError (note [.ksInitFailed] s)) ∨ Succeeds i s t := by
  cases i with
  | csum =>
    rcases execCsum_cases s with ⟨a, g⟩ | ⟨a, g⟩ <;> simp only [exec, g] at h <;> have h := next_inj h
    · left; exact ⟨_, by simp, by simp, h.symm⟩
    · right; right; exact ⟨a, h.symm⟩
  | shuf =>
    rcases execPermute_cases .shuffle s with ⟨_, g⟩ | ⟨_, _, g⟩ | ⟨_, _, _, g⟩ | ⟨a, _, b, g⟩ <;> simp only [exec, execShuf, g] at h
    · left; exact ⟨_, by simp, by simp, (next_inj h).symm⟩
    · cases h
    · right; left; exact ⟨.inl rfl, (next_inj h).symm⟩
    · right; right; exact ⟨a, b, (next_inj h).symm⟩
  | unshuf =>
    rcases execPermute_cases .unshuffle s with ⟨_, g⟩ | ⟨_, _, g⟩ | ⟨_, _, _, g⟩ | ⟨a, _, b, g⟩ <;> simp only [exec, execUnshuf, g] at h
    · left; exact ⟨_, by simp, by simp, (next_inj h).symm⟩
    · cases h
    · right; left; exact ⟨.inr rfl, (next_inj h).symm⟩
    · right; right; exact ⟨a, b, (next_inj h).symm⟩
  | build =>
    rcases execBuild_cases s with ⟨_, g⟩ | ⟨_, _, g⟩ | ⟨_, _, _, g⟩ | ⟨b, a, _, g⟩ <;> simp only [exec, g] at h
    · left; exact ⟨_, by simp, by simp, (next_inj h).symm⟩
    · left; exact ⟨_, by simp, by simp, (next_inj h).symm⟩
    · cases h
    · right; right; exact ⟨a, b, (next_inj h).symm⟩
  | openEnv =>
    rcases execOpen_cases s with ⟨_, g⟩ | ⟨_, _, g⟩ | ⟨_, _, _, g⟩ | ⟨b, c', a, g⟩ <;> simp only [exec, g] at h
    · left; exact ⟨_, by simp, by simp, (next_inj h).symm⟩
    · left; exact ⟨_, by simp, by simp, (next_inj h).symm⟩
    · left; exact ⟨_, by simp, by simp, (next_inj h).symm⟩
    · right; right; exact ⟨c', a, b, (next_inj h).symm⟩
  | enc m =>
    rcases execEnc_cases m s with ⟨_, g⟩ | ⟨_, _, g⟩ | ⟨_, _, _, g⟩ | ⟨_, _, _, _, g⟩ | ⟨b, a, _, _, g⟩ <;> simp only [exec, g] at h
    · left; exact ⟨_, by simp, by simp, (next_inj h).symm⟩
    · left; exact ⟨_, by simp, by simp, (next_inj h).symm⟩
    · cases h
    · cases h
    · right; right; exact ⟨a, b, (next_inj h).symm⟩
  | dec m =>
    rcases execDec_cases m s with ⟨_, g⟩ | ⟨_, _, g⟩ | ⟨_, _, _, g⟩ | ⟨_, _, _, _, g⟩ | ⟨b, c', a, _, g⟩ <;> simp only [exec, g] at h
    · left; exact ⟨_, by simp, by simp, (next_inj h).symm⟩
    · left; exact ⟨_, by simp, by simp, (next_inj h).symm⟩
    · left; exact ⟨_, by simp, by simp, (next_inj h).symm⟩
    · cases h
    · right; right; exact ⟨c', a, b, (next_inj h).symm⟩
  | genkey =>
    rcases execGenkey_cases s with ⟨_, g⟩ | ⟨_, g⟩ <;> simp only [exec, g] at h
    · cases h
    · right; right; exact (next_inj h).symm

theorem succeeds_noError {i : Instr} {s t : State} (h : Succeeds i s t) : t.err = .noError := by
  cases i <;> simp only [Succeeds] at h
  · rw [h.2]; simp
  · rw [h.2.2]; simp
  · rw [h.2.2]; simp
  · rw [h.2.2]; simp
  · rw [h.2.2.2]; simp
  · rw [h.2.2]; simp
  · rw [h.2.2.2]; simp
  · rw [h]; simp

/-- A permutation leaves the bytes above the content alone. -/
theorem bufByte_permuteContent_above (d : Direction) (s : State) (a : Nat) (h : s.len.toNat ≤ a) :
    bufByte (permuteContent d s) a = bufByte s a := by
  rw [bufByte_of_putAll (s := s) (permuteContent_buf d s) (by simp), dif_neg]; simp; omega

/-- BUILD leaves the bytes above the envelope alone. -/
theorem bufByte_buildContent_above (s : State) (a : Nat) (h : s.len.toNat + 24 ≤ a) : bufByte (buildContent s) a = bufByte s a := by
  rw [bufByte_of_putAll (s := s) (buildContent_buf s) (by simp), dif_neg]; simp; omega

/-- OPEN leaves the bytes above the envelope alone. -/
theorem bufByte_openContent_above (s : State) (a : Nat) (h24 : 24 ≤ s.len.toNat) (h : s.len.toNat ≤ a) :
    bufByte (openContent s) a = bufByte s a := by
  rw [bufByte_of_putAll (s := s) (openContent_buf s) (by simp), dif_neg]; simp; omega

/-- OPEN leaves free bytes between the message and the end of the envelope. -/
theorem bufByte_openContent_tail (s : State) (k : Nat) (hk : k < 24) :
    bufByte (openContent s) ((openContent s).len.toNat + k) = Config.tailByte s.free.tails k := by
  rw [len_openContent, bufByte_of_putAll (s := s) (openContent_buf s) (by simp), dif_pos (by simp; omega)]
  rw [List.getElem_append_right (by simp)]
  simp [unspecifiedTail]

end Sys2Proof.Machine
end

