-- ==== Sys2Proof/Laws/PerInstr.lean ====
section
/-!
SUPPORT. Per-instruction facts about the encoding: the word the encoder writes for each command passes the three checks of a legal word.
-/

namespace Sys2Proof.Laws.LegalWord

open Sys2Proof

/-- The encoder's word for a command has the fields the encoder gave it, and they are well formed (30_encoding.md R50, R51). -/
def Statement (i : Instr) : Prop := fieldsOf (encode i) = encodeFields i ∧ (fieldsOf (encode i)).wellFormed = true

theorem csum : Statement .csum := by unfold Statement; decide

theorem shuf : Statement .shuf := by unfold Statement; decide

theorem unshuf : Statement .unshuf := by unfold Statement; decide

theorem build : Statement .build := by unfold Statement; decide

theorem openEnv : Statement .openEnv := by unfold Statement; decide

theorem enc (m : Mode) : Statement (.enc m) := by cases m <;> (unfold Statement; decide)

theorem dec (m : Mode) : Statement (.dec m) := by cases m <;> (unfold Statement; decide)

theorem genkey : Statement .genkey := by unfold Statement; decide

end Sys2Proof.Laws.LegalWord
end

