-- ==== Sys2Proof/Laws/Step.lean ====
section
/-!
SUPPORT. What one step can do, said once.
-/

namespace Sys2Proof.Machine

open Sys2Proof

theorem commandWord_commandWrite (w : BitVec 8) : commandWord (commandWrite w.toNat) = some w := by
  simp [commandWord, commandWrite, w.isLt]

/-- A step with an access pending serves that access. -/
theorem step_of_pending {s : State} {ev : HostEvent} {rest : List HostEvent} (h : s.host.pending = ev :: rest) :
    step s = serveEvent ev { s with host := { s.host with pending := rest } } := by
  simp [step, h, dequeue]

theorem runWord_of_decode {w : BitVec 8} {i : Instr} (h : decode w = .ok i) (s : State) : runWord w s = exec i s := by
  simp [runWord, h]

/-- A command word either runs its command or is illegal. -/
theorem runWord_cases (w : BitVec 8) (s : State) :
    (∃ i, decode w = .ok i ∧ runWord w s = exec i s) ∨ runWord w s = .next (raise .illegalCommand s) := by
  cases h : decode w with
  | ok i => left; exact ⟨i, rfl, runWord_of_decode h s⟩
  | error e => right; simp [runWord, h]

/-- Every outcome of a step: idle, a command word run, or another event served. -/
theorem step_cases (s : State) :
    (s.host.pending = [] ∧ step s = .next s) ∨
    (∃ w, step s = runWord w (respond .done (dequeue s))) ∨
    (∃ ev, commandWord ev = none ∧ step s = .next (serve ev (dequeue s))) := by
  cases h : s.host.pending with
  | nil => left; exact ⟨rfl, by simp [step, h]⟩
  | cons ev rest =>
    right
    cases g : commandWord ev with
    | some w => left; exact ⟨w, by simp [step, h, serveEvent, g]⟩
    | none => right; exact ⟨ev, g, by simp [step, h, serveEvent, g]⟩

/-- What an event that is no command can do to the state. -/
theorem serve_cases (ev : HostEvent) (s : State) :
    (∃ r, serve ev s = respond r s) ∨
    (∃ v r, serve ev s = respond r { s with klen := v }) ∨
    (∃ v r, serve ev s = respond r { s with len := v }) ∨
    (∃ a v r, a < keyMax ∧ serve ev s = respond r (writeKey a [v] s)) ∨
    (∃ a v r, a < bufcap s ∧ serve ev s = respond r (writeBuf a [v] s)) ∨
    (∃ d : Devices, serve ev s = resetBlock { s with dev := d }) ∨
    (∃ d : Devices, serve ev s = { s with dev := d }) := by
  cases ev with
  | read sp a u =>
    left
    simp only [serve, hostRead]
    split
    · exact ⟨_, rfl⟩
    · exact ⟨_, rfl⟩
  | write sp a u v =>
    simp only [serve, hostWrite]
    split
    · next t ht =>
      simp only [writeEffect] at ht
      split at ht
      · cases ht
      · cases sp with
        | ctrl =>
          simp only at ht
          split at ht
          · injection ht with ht; subst ht; right; left; exact ⟨_, _, rfl⟩
          · split at ht
            · injection ht with ht; subst ht; right; right; left; exact ⟨_, _, rfl⟩
            · cases ht
        | keymem =>
          simp only at ht
          split at ht
          · next h => injection ht with ht; subst ht; right; right; right; left; exact ⟨_, _, _, h.1, rfl⟩
          · cases ht
        | bufmem =>
          simp only at ht
          split at ht
          · next h => injection ht with ht; subst ht; right; right; right; right; left; exact ⟨_, _, _, h.1, rfl⟩
          · cases ht
        | maskmem => cases ht
    · left; exact ⟨_, rfl⟩
  | reset => right; right; right; right; right; left; exact ⟨s.dev, rfl⟩
  | abandoned w l => right; right; right; right; right; left; exact ⟨_, rfl⟩
  | devices a b => right; right; right; right; right; right; exact ⟨_, rfl⟩

end Sys2Proof.Machine
end

