-- ==== Sys2Proof/Tests/Slice0.lean ====
section
/-!
SUPPORT. The author's tests: the checks of a legal word, words written out bit by bit, one step on small states (expected values from
95_test_vectors.md and the rules it cites), and a witness of the hypotheses of each statement.
-/

set_option Elab.async false

namespace Sys2Proof.Tests

open Sys2Proof Sys2Proof.Machine

/-! ### Small states -/

/-- A capacity of 32 bytes, as program P2 has it. -/
def cap32 : BufCap := ⟨32, by decide, by decide⟩

/-- A machine of 32 bytes with the default constants and a table of known keystreams. -/
def blank (ks : List (List Byte × List Byte)) : State :=
  State.resetWith { bufcap := cap32, fnvOffset := Config.fnvOffsetDefault, fnvPrime := Config.fnvPrimeDefault, ksKnown := ks }

/-- The test keystream KS-T of 95_test_vectors.md section 0, its first `n` bytes. -/
def ksT (key : List Byte) (n : Nat) : List Byte :=
  (List.range n).map fun t => key.getD (t % key.length) 0 + BitVec.ofNat 8 t

/-- A machine with a key and a content, and the bytes its random source delivers. -/
def loaded (ks : List Byte) (key buf rng : List Byte) : State :=
  let s := blank [(key, ks)]
  { s with
    key := memPutAll [] 0 key, klen := BitVec.ofNat 9 key.length, buf := memPutAll [] 0 buf, len := BitVec.ofNat 32 buf.length,
    dev := { s.dev with rngFeed := rng } }

/-- A machine with lengths, its bytes as reset left them. -/
def sized (klen len : Nat) : State := { blank [] with klen := BitVec.ofNat 9 klen, len := BitVec.ofNat 32 len }

/-- `sized` with devices that answer or not. -/
def sizedDev (klen len : Nat) (rng ks : Bool) : State :=
  { sized klen len with dev := { (sized klen len).dev with rngAnswers := rng, ksAnswers := ks } }

/-- A machine with one access pending. -/
def facing (ev : HostEvent) : State := { sized 1 24 with host := { pending := [ev], response := none } }

/-- What a test looks at in a next state; no test passes on a stop. -/
def after (o : Host.Outcome State Fault Refusal) (f : State → Bool) : Bool :=
  match o with
  | .next t => f t
  | .fault _ => false
  | .refused _ => false

/-- A command ends, with this code. -/
def endsWith (e : ErrCode) (i : Instr) (s : State) : Bool := after (exec i s) fun t => decide (t.err = e)

/-- Content, LEN, ACC, EMB and STATUS against expected ones. -/
def leaves (bytes : List Byte) (acc emb : Word64) (status : BitVec 8) (t : State) : Bool :=
  decide (content t = bytes ∧ t.len.toNat = bytes.length ∧ t.acc = acc ∧ t.emb = emb ∧ statusWord t = status)

/-! ### A legal word (30_encoding.md R50 to R55) -/

theorem test_reserved_bits_refused : (CommandFields.mk 1 0 1).reservedClear = false ∧ (CommandFields.mk 1 0 1).wellFormed = false := by
  decide

theorem test_unassigned_refused :
    (CommandFields.mk 0 0 0).opAssigned = false ∧ (CommandFields.mk 0 0 9).opAssigned = false ∧
    (CommandFields.mk 0 0 15).wellFormed = false := by decide

theorem test_mode_refused :
    (CommandFields.mk 0 1 5).modeAllowed = false ∧ (CommandFields.mk 0 1 8).modeAllowed = false ∧
    (CommandFields.mk 0 1 1).wellFormed = false := by decide

/-- R51: the ten words, bit by bit. -/
theorem test_words :
    decode 0b00000001 = .ok .csum ∧ decode 0b00000010 = .ok .shuf ∧ decode 0b00000011 = .ok .unshuf ∧
    decode 0b00000100 = .ok .build ∧ decode 0b00000101 = .ok .openEnv ∧ decode 0b00000110 = .ok (.enc .optimizeEncryption) ∧
    decode 0b00010110 = .ok (.enc .optimizeDecryption) ∧ decode 0b00000111 = .ok (.dec .optimizeEncryption) ∧
    decode 0b00010111 = .ok (.dec .optimizeDecryption) ∧ decode 0b00001000 = .ok .genkey := by decide

/-- V-DC-1: samples of illegal words, with the test of R52 that each fails. -/
theorem test_illegal_words :
    decode 0x00 = .error .operationUnassigned ∧ decode 0x09 = .error .operationUnassigned ∧
    decode 0x0F = .error .operationUnassigned ∧ decode 0x11 = .error .modeNotAllowed ∧ decode 0x18 = .error .modeNotAllowed ∧
    decode 0x26 = .error .reservedBitsSet ∧ decode 0x86 = .error .reservedBitsSet ∧ decode 0xFF = .error .reservedBitsSet := by decide

/-- R57: the assembler's names. -/
theorem test_assemble :
    assemble ["ENC", "OD"] = some (.enc .optimizeDecryption) ∧ assemble ["DEC", "0"] = some (.dec .optimizeEncryption) ∧
    assemble ["OPEN"] = some .openEnv ∧ assemble ["ENC"] = none := by decide

/-! ### The commands, one step each -/

/-- V-CK-2. -/
theorem test_csum : after (exec .csum (loaded [] [] [0x61] [])) (leaves [0x61] 0xAF63DC4C8601EC8C 0 0x00) = true := by decide +kernel

/-- V-CK-12: the order of the bytes matters. -/
theorem test_csum_order : checksum (blank []).params [3, 2, 1] = 0xE1EFC21870F169C3 := by decide +kernel

/-- The stream of V-PM-1. -/
def streamPm1 : List Byte :=
  [1, 0, 0, 0, 0, 0, 0, 2, 9, 0, 0, 0, 0, 0, 0, 0, 255, 255, 255, 255, 255, 255, 255, 255, 0, 1, 0, 0, 0, 0, 0, 0] ++
  [4, 0, 0, 0, 0, 0, 0, 128, 6, 0, 0, 0, 0, 0, 0, 0, 0, 0, 0, 0, 0, 0, 0, 0]

/-- V-PM-1, shuffle. -/
theorem test_shuf :
    after (exec .shuf (loaded streamPm1 [1] [0xA0, 0xA1, 0xA2, 0xA3, 0xA4, 0xA5, 0xA6] []))
      (leaves [0xA3, 0xA1, 0xA0, 0xA4, 0xA5, 0xA6, 0xA2] 0 0 0x00) = true := by decide +kernel

/-- V-PM-1, unshuffle of the original. -/
theorem test_unshuf :
    after (exec .unshuf (loaded streamPm1 [1] [0xA0, 0xA1, 0xA2, 0xA3, 0xA4, 0xA5, 0xA6] []))
      (leaves [0xA2, 0xA1, 0xA6, 0xA0, 0xA3, 0xA4, 0xA5] 0 0 0x00) = true := by decide +kernel

/-- V-XR-1: the key index goes on where the mask wraps. -/
theorem test_xor_layer :
    xorLayer [0x10, 0x11, 0x12, 0x13, 0x14, 0x15, 0x16, 0x17, 0x18, 0x19, 0x1A, 0x1B, 0x1C, 0x1D, 0x1E, 0x1F] [1, 2, 3]
      [0, 1, 2, 3, 4, 5, 6, 7, 8, 9, 10, 11, 12, 13, 14, 15, 16, 17, 18, 19] =
    [0x11, 0x12, 0x13, 0x11, 0x12, 0x13, 0x11, 0x12, 0x13, 0x11, 0x12, 0x13, 0x11, 0x12, 0x13, 0x11, 2, 3, 1, 2] := by decide +kernel

/-- The mask bytes of V-ENV-1. -/
def maskEnv1 : List Byte := [0, 1, 2, 3, 4, 5, 6, 7, 8, 9, 10, 11, 12, 13, 14, 15]

/-- The envelope of V-ENV-1. -/
def env1 : List Byte := [0x6A, 0x98, 0x45, 0xB5, 0x07, 0x44, 0x9C, 0x08] ++ maskEnv1 ++ [0x9E, 0x9C]

/-- V-ENV-1, BUILD. -/
theorem test_build :
    after (exec .build (loaded [] [0xFF] [0x61, 0x62] maskEnv1))
      (fun t => leaves env1 0x089C4407B545986A 0 0x00 t && decide (t.mask.toList = maskEnv1)) = true := by decide +kernel

/-- V-ENV-1, OPEN. -/
theorem test_open :
    after (exec .openEnv (loaded [] [0xFF] env1 []))
      (fun t => leaves [0x61, 0x62] 0x089C4407B545986A 0x089C4407B545986A 0x10 t && decide (t.mask.toList = maskEnv1)) = true := by
  decide +kernel

/-- V-ENV-4: one flipped bit of the checksum field: the message is delivered, with no error and OK = 0. -/
theorem test_open_not_authentic :
    after (exec .openEnv (loaded [] [0xFF] (0x6B :: env1.tail) []))
      (leaves [0x61, 0x62] 0x089C4407B545986A 0x089C4407B545986B 0x00) = true := by decide +kernel

/-- The message of P5. -/
def msgP5 : List Byte := [1, 2, 3, 4, 5, 6, 7, 8]

/-- What P5 has after BUILD and SHUF, "identical to what ENC OE would have left". -/
def encP5 : List Byte :=
  [0x01, 0x06, 0x0A, 0x09, 0xED, 0x78, 0x8A, 0x36, 0x8B, 0x08, 0xB5, 0x7E, 0x10, 0x00, 0x02, 0x03] ++
  [0x04, 0x0A, 0x06, 0x07, 0x08, 0x05, 0x0A, 0x0B, 0x0C, 0x08, 0x0D, 0x0F, 0x08, 0x0E, 0x08, 0x0E]

/-- P5, its first two commands as one ENC 0. -/
theorem test_enc :
    after (exec (.enc .optimizeEncryption) (loaded (ksT [9] 256) [9] msgP5 maskEnv1)) (leaves encP5 0x7EB5108B368A78ED 0 0x00) = true := by
  decide +kernel

/-- P5, its last two commands as one DEC 0. -/
theorem test_dec :
    after (exec (.dec .optimizeEncryption) (loaded (ksT [9] 256) [9] encP5 []))
      (leaves msgP5 0x7EB5108B368A78ED 0x7EB5108B368A78ED 0x10) = true := by decide +kernel

/-- V-SQ-1. -/
theorem test_genkey :
    after (exec .genkey (loaded [] [] [] ((List.range 256).map (BitVec.ofNat 8)))) (fun t =>
      decide (t.klen = 256 ∧ statusWord t = 0x00 ∧ keyByte t 0 = 0 ∧ keyByte t 7 = 7 ∧ keyByte t 255 = 255)) = true := by
  decide +kernel

/-- V-SQ-1, last sentence: word 18 is illegal and nothing is drawn. -/
theorem test_genkey_with_mode :
    after (step (facing (commandWrite 0x18))) (fun t => decide (statusWord t = 0x05 ∧ t.dev.traffic = [] ∧ t.klen = 1)) = true := by
  decide +kernel

/-- P2 step 2: `KLEN = 0` and `LEN = 0`: one failing `KS.init`. -/
theorem test_shuf_bad_key :
    after (exec .shuf (sized 0 0)) (fun t => decide (statusWord t = 0x03 ∧ t.dev.traffic = [.ksInitFailed])) = true := by decide +kernel

/-- V-ENV-5: no RNG byte is drawn by a BUILD that ends with an error. -/
theorem test_build_overflow :
    after (exec .build (sized 1 9)) (fun t => decide (statusWord t = 0x04 ∧ t.dev.traffic = [] ∧ t.len = 9)) = true := by decide +kernel

/-! ### Reset, and the first step after it -/

/-- V-RS-1. -/
theorem test_reset_status : statusWord State.reset = 0x00 ∧ State.reset.klen = 0 ∧ State.reset.len = 0 ∧ State.reset.acc = 0 := by decide

/-- P2 steps 1 to 3 from reset, whatever the capacity: ENC has no key, SHUF has none, CSUM needs none. -/
theorem test_first_step_after_reset :
    after (step (State.reset.withFetchWord 8 0x06)) (fun t => decide (t.err = .invalidKeySize)) = true ∧
    after (step (State.reset.withFetchWord 8 0x02)) (fun t => decide (t.err = .keystreamInitError)) = true ∧
    after (step (State.reset.withFetchWord 8 0x01)) (fun t => decide (t.err = .noError ∧ t.acc = 0xCBF29CE484222325)) = true := by
  refine ⟨?_, ?_, ?_⟩ <;> rfl

/-! ### Witnesses: states that meet the hypotheses of the statements -/

/-- IllegalWordChangesOnlyStatus: a word for each way to be illegal, at the edges. -/
theorem witness_illegal_words : ∀ w ∈ [(0x20 : BitVec 8), 0xFF, 0x00, 0x09, 0x0F, 0x11, 0x15, 0x18],
    (facing (commandWrite w.toNat)).host.pending = commandWrite w.toNat :: [] ∧
    (w.toNat / 32 ≠ 0 ∨ w.toNat % 16 = 0 ∨ 9 ≤ w.toNat % 16 ∨ (w.toNat / 16 % 2 = 1 ∧ w.toNat % 16 ≠ 6 ∧ w.toNat % 16 ≠ 7)) ∧
    after (step (facing (commandWrite w.toNat))) (fun t => decide (t.err = .illegalCommand)) = true := by decide +kernel

/-- StepRunsTheDecodedCommand, CommandWordRunsByItsFields: the least and the greatest legal word. -/
theorem witness_step : ∀ p ∈ [((0x01 : BitVec 8), Instr.csum), (0x17, .dec .optimizeDecryption)],
    decode p.1 = .ok p.2 ∧ (facing (commandWrite p.1.toNat)).host.pending = commandWrite p.1.toNat :: [] := by decide

/-- IdleWithNoAccessPending. -/
theorem witness_idle : (sized 1 24).host.pending = [] := rfl

/-- HostReadsReturnTheState: every register, and both ends of every space. -/
theorem witness_reads :
    (∀ p ∈ [(1, 0), (2, 1), (3, 24), (4, 0), (5, 0)],
      after (step (facing (.read .ctrl p.1 1))) (fun t => decide (t.host.response = some (.value p.2))) = true) ∧
    ∀ p ∈ [(Space.keymem, 0), (.keymem, 255), (.bufmem, 0), (.bufmem, 31), (.maskmem, 0), (.maskmem, 15)],
      after (step (facing (.read p.1 p.2 1))) (fun t => t.host.response.isSome && t.host.response != some .refusedAccess) = true := by
  refine ⟨by decide +kernel, ?_⟩
  intro p hp
  simp only [List.mem_cons, List.not_mem_nil, or_false] at hp
  rcases hp with rfl | rfl | rfl | rfl | rfl | rfl <;> rfl

/-- HostReadsReturnTheState, its clauses on STATUS: each code of R105, and OK. -/
theorem witness_status_codes :
    (∀ p ∈ [(ErrCode.noError, 0), (.invalidKeySize, 1), (.invalidDataSize, 2), (.keystreamInitError, 3), (.bufferOverflow, 4),
        (.illegalCommand, 5)],
      after (step { facing (.read .ctrl 1 1) with err := p.1 }) (fun t => decide (t.host.response = some (.value p.2))) = true) ∧
    after (step { facing (.read .ctrl 1 1) with ok := true }) (fun t => decide (t.host.response = some (.value 16))) = true := by
  decide +kernel

/-- HostWritesChangeOneItem: the greatest datum and the last address of each. -/
theorem witness_writes :
    after (step (facing (.write .ctrl 2 1 511))) (fun t => decide (t.klen = 511)) = true ∧
    after (step (facing (.write .ctrl 3 1 4294967295))) (fun t => decide (t.len = 4294967295)) = true ∧
    after (step (facing (.write .keymem 255 1 255))) (fun t => decide (keyByte t 255 = 255)) = true ∧
    after (step (facing (.write .bufmem 31 1 255))) (fun t => decide (bufByte t 31 = 255)) = true := by decide +kernel

/-- RefusedAccessChangesNothing: the first address outside each space, a wrong size, a register of the other direction. -/
theorem witness_refused :
    ∀ ev ∈ [HostEvent.read .ctrl 6 1, .read .keymem 256 1, .read .bufmem 32 1, .read .maskmem 16 1, .read .ctrl 1 0, .read .keymem 0 2,
      .read .ctrl 0 1, .write .ctrl 6 1 0, .write .keymem 256 1 0, .write .bufmem 32 1 0, .write .maskmem 16 1 0, .write .ctrl 0 2 1,
      .write .ctrl 1 1 0, .write .ctrl 4 1 0, .write .ctrl 5 1 0, .write .maskmem 0 1 0],
    (facing ev).host.pending = ev :: [] ∧
    step (facing ev) = .next { facing ev with host := { pending := [], response := some .refusedAccess } } := by
  intro ev h
  simp only [List.mem_cons, List.not_mem_nil, or_false] at h
  rcases h with rfl | rfl | rfl | rfl | rfl | rfl | rfl | rfl | rfl | rfl | rfl | rfl | rfl | rfl | rfl | rfl <;> exact ⟨rfl, rfl⟩

/-- OddPrimeSeparatesLastBytes: R4's default prime is odd. -/
theorem witness_odd_prime :
    (blank []).params.fnvPrime.toNat % 2 = 1 ∧ checksum (blank []).params ([1] ++ [2]) = checksum (blank []).params ([1] ++ [2]) := by decide

/-- CsumComputesTheChecksum: LEN 0 and BUFCAP, KLEN 0 and 511; LEN one too long. -/
theorem witness_csum :
    (∀ s ∈ [sized 0 0, sized 511 32], s.len.toNat ≤ s.params.bufcap.size ∧ endsWith .noError .csum s = true) ∧
    (sized 1 33).params.bufcap.size < (sized 1 33).len.toNat := by decide +kernel

/-- IndexIsBlockModuloLength: the first and the last index. -/
theorem witness_index : 0 < 1 ∧ 6 < 7 ∧ indexSeq (blank [([1], streamPm1)]).params [1] 7 = [2, 2, 1, 4, 5, 6, 0] := by decide +kernel

/-- SwapStepIsItsOwnInverse: two positions, and a position with itself. -/
theorem witness_swap :
    ([1, 1] : List Nat)[0]? = some 1 ∧ ([1, 1] : List Nat)[1]? = some 1 ∧ 1 < ([7, 8] : List Byte).length ∧
    swapStep [1, 1] [7, 8] 0 = [8, 7] ∧ swapStep [1, 1] [7, 8] 1 = [7, 8] := by decide

/-- PermutationIsABijection: no byte, and seven. -/
theorem witness_permutation : ([] : List Byte).length = 0 ∧ maskEnv1.length = 16 := by decide

/-- ShufAndUnshufPermuteTheContent, ShuffleAndUnshuffleAreInverse: KLEN 1 and 256, LEN 0 and BUFCAP. -/
theorem witness_permute : ∀ s ∈ [sized 1 0, sized 1 32, sized 256 0, sized 256 32],
    1 ≤ s.klen.toNat ∧ s.klen.toNat ≤ 256 ∧ s.len.toNat ≤ s.params.bufcap.size ∧ s.dev.ksAnswers = true ∧
    endsWith .noError .shuf s = true ∧ endsWith .noError .unshuf s = true := by decide +kernel

/-- ShortPermutationsChangeNoByte: LEN 0 and 1. -/
theorem witness_short : ∀ s ∈ [sized 1 0, sized 256 1],
    1 ≤ s.klen.toNat ∧ s.klen.toNat ≤ 256 ∧ s.len.toNat ≤ 1 ∧ s.dev.ksAnswers = true ∧
    after (exec .shuf s) (fun t => decide (t.dev.traffic.length = 1 + s.len.toNat)) = true := by decide +kernel

/-- XorLayerIsBytewise, XorLayerIsItsOwnInverse: keys of 1 and 256 bytes, the last byte of a message of 17. -/
theorem witness_xor : ∀ key ∈ [([0x5A] : List Byte), List.replicate 256 0xAB],
    maskEnv1.length = 16 ∧ 1 ≤ key.length ∧ key.length ≤ 256 ∧ (0 :: maskEnv1)[16]? = some 15 ∧ maskEnv1[16 % 16]? = some 0 ∧
    (key[16 % key.length]?).isSome = true := by decide +kernel

/-- ParseInvertsFrame: an envelope, and the least sequence that parses. -/
theorem witness_frame :
    maskEnv1.length = 16 ∧ 24 ≤ (env1.take 24).length ∧ parseCiphertext (env1.take 24) = [] ∧ parseCiphertext env1 = [0x9E, 0x9C] := by
  decide

/-- BuildMakesTheEnvelope, EncPermutesTheEnvelope, EncIsBuildThenPermute: KLEN 1 and 256, LEN 0 and BUFCAP - 24. -/
theorem witness_build : ∀ s ∈ [sized 1 0, sized 1 8, sized 256 0, sized 256 8],
    1 ≤ s.klen.toNat ∧ s.klen.toNat ≤ 256 ∧ s.len.toNat + 24 ≤ s.params.bufcap.size ∧ s.dev.rngAnswers = true ∧
    s.dev.ksAnswers = true ∧ endsWith .noError .build s = true ∧ endsWith .noError (.enc .optimizeEncryption) s = true ∧
    endsWith .noError (.enc .optimizeDecryption) s = true := by decide +kernel

/-- OpenRecoversTheMessage, DecOpensTheUnpermutedEnvelope, DecIsPermuteThenOpen: KLEN 1 and 256, LEN 24 and BUFCAP. -/
theorem witness_open : ∀ s ∈ [sized 1 24, sized 1 32, sized 256 24, sized 256 32],
    1 ≤ s.klen.toNat ∧ s.klen.toNat ≤ 256 ∧ 24 ≤ s.len.toNat ∧ s.len.toNat ≤ s.params.bufcap.size ∧ s.dev.ksAnswers = true ∧
    endsWith .noError .openEnv s = true ∧ endsWith .noError (.dec .optimizeEncryption) s = true ∧
    endsWith .noError (.dec .optimizeDecryption) s = true := by decide +kernel

/-- Two states agree on what OPEN and DEC read. -/
def agree (t u : State) : Bool :=
  decide (u.params = t.params ∧ u.klen = t.klen ∧ u.len = t.len ∧ content u = content t ∧ keyOf u = keyOf t ∧ u.dev.ksAnswers = true)

/-- OpenUndoesBuild: a second state that agrees with the one BUILD leaves. -/
theorem witness_open_undoes_build :
    after (exec .build (loaded [] [0xFF] [0x61, 0x62] maskEnv1)) (fun t => agree t (loaded [] [0xFF] env1 [])) = true := by decide +kernel

/-- DecUndoesEnc: a second state that agrees with the one ENC leaves. -/
theorem witness_dec_undoes_enc :
    after (exec (.enc .optimizeEncryption) (loaded (ksT [9] 256) [9] msgP5 maskEnv1))
      (fun t => agree t (loaded (ksT [9] 256) [9] encP5 [])) = true := by decide +kernel

/-- IntegrityFlagMeansChecksumsAgree, LengthChangesByTwentyFour, EachCommandWritesOnlyItsState, PortTrafficOfEachCommand, DrawsAndFreeValuesAreUsedOnce: every command ends without
error somewhere. -/
theorem witness_success :
    ∀ p ∈ [(Instr.csum, sized 0 32), (.shuf, sized 1 32), (.unshuf, sized 256 32), (.build, sized 1 8), (.openEnv, sized 1 24),
      (.enc .optimizeEncryption, sized 1 8), (.enc .optimizeDecryption, sized 256 0), (.dec .optimizeEncryption, sized 1 24),
      (.dec .optimizeDecryption, sized 256 32), (.genkey, sized 0 0)], endsWith .noError p.1 p.2 = true := by decide +kernel

/-- Each error is met: the same statements, ErrorsComeInTheFixedOrder, ErrorTouchesOnlyStatus. -/
theorem witness_errors :
    ∀ p ∈ [(Instr.csum, sized 0 33, ErrCode.bufferOverflow), (.shuf, sized 0 33, .bufferOverflow), (.shuf, sized 0 32, .keystreamInitError),
      (.unshuf, sized 257 0, .keystreamInitError), (.build, sized 0 33, .invalidKeySize), (.build, sized 1 9, .bufferOverflow),
      (.openEnv, sized 257 23, .invalidKeySize), (.openEnv, sized 256 23, .invalidDataSize), (.openEnv, sized 1 33, .bufferOverflow),
      (.enc .optimizeEncryption, sized 511 0, .invalidKeySize), (.enc .optimizeDecryption, sized 256 9, .bufferOverflow),
      (.dec .optimizeEncryption, sized 0 5, .invalidKeySize), (.dec .optimizeDecryption, sized 1 0, .invalidDataSize),
      (.dec .optimizeEncryption, sized 256 33, .bufferOverflow)], endsWith p.2.2 p.1 p.2.1 = true := by decide +kernel

/-- GenkeyFillsTheKey, EveryCommandEndsIfTheDevicesAnswer. -/
theorem witness_answering : (sized 0 0).dev.rngAnswers = true ∧ (sized 0 0).dev.ksAnswers = true := by decide

/-- BadKeyLengthEndsWithInvalidKeySize: KLEN 0, 257 and 511. -/
theorem witness_bad_key : ∀ s ∈ [sized 0 24, sized 257 0, sized 511 33], s.klen.toNat = 0 ∨ 256 < s.klen.toNat := by decide

/-- ShortEnvelopeEndsWithInvalidDataSize: LEN 0 and 23. -/
theorem witness_short_envelope : ∀ s ∈ [sized 1 0, sized 256 23], 1 ≤ s.klen.toNat ∧ s.klen.toNat ≤ 256 ∧ s.len.toNat < 24 := by decide

/-- OversizeEndsWithBufferOverflow: the least length too long, and the greatest, which does not wrap round. -/
theorem witness_oversize : ∀ s ∈ [sized 1 33, sized 256 4294967295],
    1 ≤ s.klen.toNat ∧ s.klen.toNat ≤ 256 ∧ s.params.bufcap.size < s.len.toNat ∧ s.params.bufcap.size < s.len.toNat + 24 ∧
    endsWith .bufferOverflow .build s = true := by decide +kernel

/-- OversizeEndsWithBufferOverflow, its last clause: content that fits, whose envelope does not. -/
theorem witness_envelope_oversize : (sized 1 9).params.bufcap.size < (sized 1 9).len.toNat + 24 := by decide

/-- BadKeyLengthFailsTheKeystream. -/
theorem witness_bad_key_permute : ∀ s ∈ [sized 0 0, sized 257 32],
    s.len.toNat ≤ s.params.bufcap.size ∧ (s.klen.toNat = 0 ∨ 256 < s.klen.toNat) ∧ s.dev.ksAnswers = true := by decide

/-- ResetEventsLeaveTheResetState: a reset, and one that abandons a GENKEY after 3 bytes. -/
theorem witness_reset_events :
    ∀ ev ∈ [HostEvent.reset, .abandoned 0x08 3], (facing ev).host.pending = ev :: [] ∧
      after (step (facing ev)) (fun t => decide (t.klen = 0 ∧ t.len = 0 ∧ t.free.resets = 1)) = true := by decide +kernel

/-- R123: the bytes an abandoned command drew are lost, no more than it draws. -/
theorem test_abandoned_draws :
    after (step (facing (.abandoned 0x08 300))) (fun t => decide (t.dev.rngDrawn = 256)) = true ∧
    after (step (facing (.abandoned 0x08 3))) (fun t => decide (t.dev.rngDrawn = 3)) = true ∧
    after (step (facing (.abandoned 0x01 3))) (fun t => decide (t.dev.rngDrawn = 0)) = true ∧
    after (step (facing (.abandoned 0x00 3))) (fun t => decide (t.dev.rngDrawn = 0)) = true := by decide +kernel

/-- OnlyASilentDeviceHangsACommand: each fault is met, and its hypotheses. -/
theorem witness_hangs :
    (∀ i ∈ [Instr.genkey, .build, .enc .optimizeEncryption], exec i (sizedDev 1 0 false true) = .fault .rngNeverAnswers) ∧
    (∀ i ∈ [Instr.shuf, .unshuf, .enc .optimizeDecryption], exec i (sizedDev 1 0 true false) = .fault .ksNeverAnswers) ∧
    exec (.dec .optimizeEncryption) (sizedDev 1 24 true false) = .fault .ksNeverAnswers ∧
    (sizedDev 1 0 true false).len.toNat ≤ (sizedDev 1 0 true false).params.bufcap.size := by
  refine ⟨?_, ?_, rfl, by decide⟩
  · intro i h
    simp only [List.mem_cons, List.not_mem_nil, or_false] at h
    rcases h with rfl | rfl | rfl <;> rfl
  · intro i h
    simp only [List.mem_cons, List.not_mem_nil, or_false] at h
    rcases h with rfl | rfl | rfl <;> rfl

/-- UnusedKeyBytesAreNeverRead: the byte at KLEN, with KLEN 0 and 256, and a command that ends. -/
theorem witness_unused_key : ∀ p ∈ [(sized 0 0, 0), (sized 255 32, 255), (sized 256 24, 256)],
    p.1.klen.toNat ≤ p.2 ∧ endsWith .noError .csum p.1 = true := by decide +kernel

/-- StaleBufferBytesAreNeverRead: the byte at LEN, with LEN 0 and BUFCAP - 1, and a command that ends. -/
theorem witness_stale : ∀ p ∈ [(sized 1 0, 0), (sized 1 31, 31)], p.1.len.toNat ≤ p.2 ∧ endsWith .noError .shuf p.1 = true := by
  decide +kernel

/-- ParametersNeverChange, EveryStepKeepsTheMemoriesWellFormed: memories with a first and a last byte, and a step that goes on. -/
theorem witness_memories :
    let s : State := { facing (commandWrite 0x05) with key := [(0, 1), (255, 2)], buf := [(0, 3), (31, 4)] }
    memWf keyMax s.key = true ∧ memWf (bufcap s) s.buf = true ∧ after (step s) (fun t => decide (t.err = .noError)) = true := by
  decide +kernel

/-- The canonical form refuses an address outside, and addresses out of order. -/
theorem test_memory_form : memWf 32 [(32, 1)] = false ∧ memWf 32 [(3, 1), (3, 2)] = false ∧ memWf 32 [(3, 1), (31, 2)] = true := by decide

/-- EveryStepKeepsTheStatusTruthful: a state with OK = 1, and a step that goes on. -/
theorem witness_status :
    let s : State := { facing (.read .ctrl 1 1) with ok := true }
    (s.ok = true → s.err = .noError ∧ s.acc = s.emb) ∧ s.ok = true ∧
    after (step s) (fun t => decide (t.host.response = some (.value 16))) = true := by decide +kernel

end Sys2Proof.Tests
end

section
/-!
PROOFS. What each command writes, and what it leaves unchanged (10_state.md R27).
-/

namespace Sys2Proof.Machine

open Sys2Proof

/-- The two ways a command ends, told apart by the error code it leaves. -/
theorem succeeds_of_exec_noError {i : Instr} {s t : State} (h : exec i s = .next t) (he : t.err = .noError) :
    Succeeds i s t := by
  rcases exec_inv h with ⟨e, hne, _, rfl⟩ | ⟨_, rfl⟩ | hs
  · exact absurd he hne
  · cases he
  · exact hs

/-- A command that ends with an error has changed STATUS and, by a failing `KS.init`, the devices (60_exceptions.md R112). -/
theorem exec_error_frame {i : Instr} {s t : State} (h : exec i s = .next t) (he : t.err ≠ .noError) :
    t = { s with err := t.err, ok := t.ok, dev := t.dev } := by
  rcases exec_inv h with ⟨e, _, _, rfl⟩ | ⟨_, rfl⟩ | hs
  · rfl
  · rfl
  · exact absurd (succeeds_noError hs) he

/-- ENC leaves the bytes above the envelope alone: the permutation moves the bytes of the envelope only. -/
theorem bufByte_permuteContent_buildContent_above (d : Direction) {s : State} (hfit : EnvelopeFits s) (a : Nat)
    (ha : s.len.toNat + 24 ≤ a) : bufByte (permuteContent d (buildContent s)) a = bufByte s a := by
  have hlen := len_buildContent hfit
  calc bufByte (permuteContent d (buildContent s)) a
      = bufByte (buildContent s) a := bufByte_permuteContent_above d _ a (by omega)
    _ = bufByte s a := bufByte_buildContent_above s a ha

/-- DEC leaves the bytes above the envelope alone. -/
theorem bufByte_openContent_permuteContent_above (d : Direction) (s : State) (h24 : 24 ≤ s.len.toNat) (a : Nat)
    (ha : s.len.toNat ≤ a) : bufByte (openContent (permuteContent d s)) a = bufByte s a := by
  have hlen : (permuteContent d s).len = s.len := permuteContent_len d s
  calc bufByte (openContent (permuteContent d s)) a
      = bufByte (permuteContent d s) a := bufByte_openContent_above _ a (by rwa [hlen]) (by rwa [hlen])
    _ = bufByte s a := bufByte_permuteContent_above d s a ha

/-- GENKEY fills the 256 bytes of KEY and no address above them. -/
theorem keyByte_generateKey_above (s : State) (a : Nat) (ha : 256 ≤ a) : keyByte (generateKey s) a = keyByte s a := by
  rw [keyByte_of_putAll (s := s) (generateKey_key s) (by simp), dif_neg]
  simp [rngBytes, genkeyLen]
  omega

/-- What a permutation command that ends without error writes, in both directions. -/
theorem finish_permuteContent_frame (d : Direction) (s t : State) (ht : t = finish false (permuteContent d s)) :
    t = { s with buf := t.buf, err := t.err, ok := t.ok, dev := t.dev } ∧
      ∀ a, s.len.toNat ≤ a → bufByte t a = bufByte s a := by
  subst ht
  exact ⟨by apply State.ext <;> simp, fun a ha => (bufByte_finish ..).trans (bufByte_permuteContent_above d s a ha)⟩

/-- Settles O49. A command that ends with an error changes STATUS and the devices; one that ends without error is its transform, whose
fields are read off and whose writes end below the stated address. -/
theorem eachCommandWritesOnlyItsState : Obligations.EachCommandWritesOnlyItsState := by
  unfold Obligations.EachCommandWritesOnlyItsState
  intro i s t h
  refine ⟨exec_error_frame h, fun he => ?_⟩
  have hs := succeeds_of_exec_noError h he
  clear h he
  cases i with
  | csum =>
    obtain ⟨_, rfl⟩ := hs
    rfl
  | shuf =>
    obtain ⟨_, _, ht⟩ := hs
    exact finish_permuteContent_frame .shuffle s t ht
  | unshuf =>
    obtain ⟨_, _, ht⟩ := hs
    exact finish_permuteContent_frame .unshuffle s t ht
  | build =>
    obtain ⟨_, _, rfl⟩ := hs
    exact ⟨by apply State.ext <;> simp, fun a ha => (bufByte_finish ..).trans (bufByte_buildContent_above s a ha)⟩
  | enc m =>
    obtain ⟨hfit, _, rfl⟩ := hs
    exact ⟨by apply State.ext <;> simp, fun a ha => (bufByte_finish ..).trans
      (bufByte_permuteContent_buildContent_above (encDirection m) hfit a ha)⟩
  | openEnv =>
    obtain ⟨h24, _, _, rfl⟩ := hs
    exact ⟨by apply State.ext <;> simp, fun a ha => (bufByte_finishOpen ..).trans (bufByte_openContent_above s a h24 ha)⟩
  | dec m =>
    obtain ⟨h24, _, _, rfl⟩ := hs
    exact ⟨by apply State.ext <;> simp, fun a ha => (bufByte_finishOpen ..).trans
      (bufByte_openContent_permuteContent_above (decDirection m) s h24 a ha)⟩
  | genkey =>
    obtain rfl : t = finish false (generateKey s) := hs
    exact ⟨by apply State.ext <;> simp, fun a ha => (keyByte_finish ..).trans (keyByte_generateKey_above s a ha)⟩

end Sys2Proof.Machine
end

section
/-!
PROOFS. The accesses that the host port refuses (20_memory.md R36), and the port traffic of each command (20_memory.md R46).
-/

namespace Sys2Proof.Machine

open Sys2Proof

/-! ### Refused accesses -/

/-- The address names nothing in its space (20_memory.md R31 to R35). -/
def OutsideSpace (s : State) (sp : Space) (a : Nat) : Prop :=
  (sp = .ctrl ∧ 5 < a) ∨ (sp = .keymem ∧ 256 ≤ a) ∨ (sp = .bufmem ∧ s.params.bufcap.size ≤ a) ∨ (sp = .maskmem ∧ 16 ≤ a)

/-- A read is refused for its size, outside its space, and at the write-only CMD; nowhere else. -/
theorem readValue_eq_none_iff (sp : Space) (a units : Nat) (s : State) :
    readValue sp a units s = none ↔ OutsideSpace s sp a ∨ units ≠ 1 ∨ (sp = .ctrl ∧ a = 0) := by
  by_cases hu : units = 1
  · cases sp with
    | ctrl =>
      match a with
      | 0 | 1 | 2 | 3 | 4 | 5 | _ + 6 => simp [readValue, ctrlValue, OutsideSpace, hu]
    | keymem => simp [readValue, OutsideSpace, hu]
    | bufmem =>
      have hcap : s.params.bufcap.size = bufcap s := rfl
      simp [readValue, OutsideSpace, hu, hcap]
    | maskmem => simp [readValue, OutsideSpace, hu]
  · simp [readValue, hu]

/-- What R36 lists of writes: outside the space, a wrong size, a read-only register, the read-only MASKMEM. -/
def WriteRefused (s : State) (sp : Space) (a units : Nat) : Prop :=
  OutsideSpace s sp a ∨ units ≠ 1 ∨ (sp = .ctrl ∧ (a = 1 ∨ a = 4 ∨ a = 5)) ∨ sp = .maskmem

theorem writeEffect_of_writeRefused {s : State} {sp : Space} {a units : Nat} (h : WriteRefused s sp a units) (v : Nat) :
    writeEffect sp a units v s = none := by
  by_cases hu : units = 1
  · cases sp with
    | ctrl =>
      have ha : a ≠ 2 ∧ a ≠ 3 := by
        simp [WriteRefused, OutsideSpace, hu] at h
        omega
      simp [writeEffect, ha]
    | keymem =>
      have ha : ¬ a < keyMax := by simpa [WriteRefused, OutsideSpace, hu] using h
      simp [writeEffect, ha]
    | bufmem =>
      have ha : ¬ a < bufcap s := by simpa [WriteRefused, OutsideSpace, hu, bufcap] using h
      simp [writeEffect, ha]
    | maskmem => simp [writeEffect]
  · simp [writeEffect, hu]

/-- Only a write of one unit to CTRL register 0 is a command. -/
theorem commandWord_of_writeRefused {s : State} {sp : Space} {a units : Nat} (h : WriteRefused s sp a units) (v : Nat) :
    commandWord (.write sp a units v) = none := by
  unfold commandWord
  split
  · next heq =>
    cases heq
    simp [WriteRefused, OutsideSpace] at h
  · rfl

/-- A read that returns no value does nothing but answer with the error response. -/
theorem serveEvent_read_of_none {s : State} {sp : Space} {a units : Nat} (h : readValue sp a units s = none) :
    serveEvent (.read sp a units) s = .next (respond .refusedAccess s) := by
  simp [serveEvent, commandWord, serve, hostRead, h]

/-- A write that is no command and has no effect does nothing but answer with the error response. -/
theorem serveEvent_write_of_none {s : State} {sp : Space} {a units v : Nat} (hc : commandWord (.write sp a units v) = none)
    (hw : writeEffect sp a units v s = none) :
    serveEvent (.write sp a units v) s = .next (respond .refusedAccess s) := by
  simp [serveEvent, hc, serve, hostWrite, hw]

/-- Settles O9: a listed read returns no value, a listed write is no command and has no effect, and such an access is only answered. -/
theorem refusedAccessChangesNothing : Obligations.RefusedAccessChangesNothing := by
  unfold Obligations.RefusedAccessChangesNothing
  intro s sp a units v rest outside answer
  constructor
  · intro hp h
    rw [step_of_pending hp]
    exact serveEvent_read_of_none ((readValue_eq_none_iff ..).2 h)
  · intro hp h
    rw [step_of_pending hp]
    refine serveEvent_write_of_none (commandWord_of_writeRefused (s := s) h v) (writeEffect_of_writeRefused ?_ v)
    exact h

/-! ### Port traffic -/

/-- The draws as R46 writes them, byte by byte. -/
theorem map_rngDraw_rngBytes (n : Nat) (d : Devices) :
    (rngBytes n d).map .rngDraw = (List.range n).map fun k => PortOp.rngDraw (rngByteAt d k) := by
  simp [rngBytes]

/-- A permutation issues the transactions of one keystream run over the content. -/
theorem traffic_permuteContent (d : Direction) (s : State) :
    (permuteContent d s).dev.traffic = s.dev.traffic ++ ksTraffic s.params (keyOf s) s.len.toNat := by
  simp [lenNat]

/-- BUILD issues the 16 draws of the mask. -/
theorem traffic_buildContent (s : State) :
    (buildContent s).dev.traffic =
      s.dev.traffic ++ (List.range 16).map fun k => PortOp.rngDraw (rngByteAt s.dev k) := by
  simp [map_rngDraw_rngBytes]

/-- ENC draws the mask, then runs the keystream over the envelope, which is 24 bytes longer than the content was. -/
theorem traffic_permuteContent_buildContent (d : Direction) {s : State} (hfit : EnvelopeFits s) :
    (permuteContent d (buildContent s)).dev.traffic = s.dev.traffic ++
      ((List.range 16).map (fun k => PortOp.rngDraw (rngByteAt s.dev k)) ++
        ksTraffic s.params (keyOf s) (s.len.toNat + 24)) := by
  rw [traffic_permuteContent, traffic_buildContent, len_buildContent hfit, keyOf_buildContent, buildContent_params,
    List.append_assoc]

/-- GENKEY issues the 256 draws of the key. -/
theorem traffic_generateKey (s : State) :
    (generateKey s).dev.traffic =
      s.dev.traffic ++ (List.range 256).map fun k => PortOp.rngDraw (rngByteAt s.dev k) := by
  simp [map_rngDraw_rngBytes]

/-- After an error the ports have seen nothing but the `KS.init` that failed. -/
theorem exec_error_traffic {i : Instr} {s t : State} (h : exec i s = .next t) (he : t.err ≠ .noError) :
    t.dev.traffic = s.dev.traffic ++ if t.err = .keystreamInitError then [.ksInitFailed] else [] := by
  rcases exec_inv h with ⟨e, _, hks, rfl⟩ | ⟨_, rfl⟩ | hs
  · simp [hks]
  · simp
  · exact absurd (succeeds_noError hs) he

/-- Settles O47: the traffic of each command that ends without error is that of its transform; `exec_error_traffic` has the errors. -/
theorem portTrafficOfEachCommand : Obligations.PortTrafficOfEachCommand := by
  unfold Obligations.PortTrafficOfEachCommand
  intro i s t h key m draws blocks
  refine ⟨fun he => ?_, exec_error_traffic h⟩
  have hs := succeeds_of_exec_noError h he
  clear h he
  cases i with
  | csum =>
    obtain ⟨_, rfl⟩ := hs
    simp
  | shuf =>
    obtain ⟨_, _, rfl⟩ := hs
    exact traffic_permuteContent .shuffle s
  | unshuf =>
    obtain ⟨_, _, rfl⟩ := hs
    exact traffic_permuteContent .unshuffle s
  | build =>
    obtain ⟨_, _, rfl⟩ := hs
    exact traffic_buildContent s
  | openEnv =>
    obtain ⟨_, _, _, rfl⟩ := hs
    simp
  | enc mode =>
    obtain ⟨hfit, _, rfl⟩ := hs
    rw [finish_dev, traffic_permuteContent_buildContent (encDirection mode) hfit]
    rfl
  | dec mode =>
    obtain ⟨_, _, _, rfl⟩ := hs
    rw [finishOpen_dev, openContent_dev]
    exact traffic_permuteContent (decDirection mode) s
  | genkey =>
    obtain rfl : t = finish false (generateKey s) := hs
    exact traffic_generateKey s

end Sys2Proof.Machine
end

section
/-!
PROOFS. The decoder in the numbers of the three fields, and a command word written to CMD (30_encoding.md R50 to R55).
-/

namespace Sys2Proof

/-! ### The fields of a word, as numbers -/

theorem fieldsOf_rsv_toNat (w : BitVec 8) : (fieldsOf w).rsv.toNat = w.toNat / 32 := by
  have hw := w.isLt
  simp only [fieldsOf, BitVec.extractLsb'_toNat, Nat.shiftRight_eq_div_pow]
  omega

theorem fieldsOf_m_toNat (w : BitVec 8) : (fieldsOf w).m.toNat = w.toNat / 16 % 2 := by
  simp [fieldsOf, Nat.shiftRight_eq_div_pow]

theorem fieldsOf_op_toNat (w : BitVec 8) : (fieldsOf w).op.toNat = w.toNat % 16 := by
  simp [fieldsOf]

/-! ### The three tests of R52 -/

theorem reservedClear_eq_false_iff (f : CommandFields) : f.reservedClear = false ↔ f.rsv.toNat ≠ 0 := by
  simp [CommandFields.reservedClear, ← BitVec.toNat_inj]

theorem opAssigned_eq_false_iff (f : CommandFields) : f.opAssigned = false ↔ f.op.toNat = 0 ∨ 9 ≤ f.op.toNat := by
  simp only [CommandFields.opAssigned, decide_eq_false_iff_not]
  omega

theorem modeAllowed_eq_false_iff (f : CommandFields) :
    f.modeAllowed = false ↔ f.m.toNat = 1 ∧ f.op.toNat ≠ 6 ∧ f.op.toNat ≠ 7 := by
  have hm := f.m.isLt
  simp only [CommandFields.modeAllowed, BitVec.ofNat_eq_ofNat, Bool.or_eq_false_iff, beq_eq_false_iff_ne, ne_eq,
    ← BitVec.toNat_inj, BitVec.toNat_ofNat, Nat.reducePow, Nat.reduceMod]
  omega

/-! ### The command of a word -/

/-- The mode a word's bit 4 stands for (R53). -/
def wordMode (w : BitVec 8) : Mode := if w.toNat / 16 % 2 = 0 then .optimizeEncryption else .optimizeDecryption

theorem modeOf_fieldsOf (w : BitVec 8) : modeOf (fieldsOf w).m = wordMode w := by
  simp [modeOf, wordMode, ← BitVec.toNat_inj, fieldsOf_m_toNat]

/-- The command of an assigned OP (R51); OP 8 is what is left. -/
def assignedCommand (mode : Mode) (op : Nat) : Instr :=
  if op = 1 then .csum
  else if op = 2 then .shuf
  else if op = 3 then .unshuf
  else if op = 4 then .build
  else if op = 5 then .openEnv
  else if op = 6 then .enc mode
  else if op = 7 then .dec mode
  else .genkey

theorem commandOf_of_opAssigned {f : CommandFields} (h : ¬ (f.op.toNat = 0 ∨ 9 ≤ f.op.toNat)) :
    commandOf f = .ok (assignedCommand (modeOf f.m) f.op.toNat) := by
  have hop : f.op.toNat ∈ [1, 2, 3, 4, 5, 6, 7, 8] := by
    simp only [List.mem_cons, List.not_mem_nil]
    omega
  unfold commandOf
  generalize f.op.toNat = op at hop
  fin_cases hop <;> rfl

/-- R52 in numbers: the three tests in their order, then the command of OP. -/
theorem decode_eq (w : BitVec 8) :
    decode w =
      if w.toNat / 32 ≠ 0 then .error .reservedBitsSet
      else if w.toNat % 16 = 0 ∨ 9 ≤ w.toNat % 16 then .error .operationUnassigned
      else if w.toNat / 16 % 2 = 1 ∧ w.toNat % 16 ≠ 6 ∧ w.toNat % 16 ≠ 7 then .error .modeNotAllowed
      else .ok (assignedCommand (wordMode w) (w.toNat % 16)) := by
  simp only [decode, decodeFields, reservedClear_eq_false_iff, opAssigned_eq_false_iff, modeAllowed_eq_false_iff,
    fieldsOf_rsv_toNat, fieldsOf_m_toNat, fieldsOf_op_toNat]
  split_ifs with hrsv hop hmode
  · rfl
  · rfl
  · rfl
  · rw [commandOf_of_opAssigned (by rwa [fieldsOf_op_toNat]), modeOf_fieldsOf, fieldsOf_op_toNat]

/-! ### Legal and illegal words -/

/-- The word is illegal by R54 or R55. -/
def IllegalWord (w : BitVec 8) : Prop :=
  w.toNat / 32 ≠ 0 ∨ w.toNat % 16 = 0 ∨ 9 ≤ w.toNat % 16 ∨ (w.toNat / 16 % 2 = 1 ∧ w.toNat % 16 ≠ 6 ∧ w.toNat % 16 ≠ 7)

theorem exists_decode_ok_iff (w : BitVec 8) : (∃ i, decode w = .ok i) ↔ ¬ IllegalWord w := by
  rw [decode_eq, IllegalWord]
  split_ifs with hrsv hop hmode
  · simp [hrsv]
  · simp only [exists_false, false_iff]
    omega
  · simp only [exists_false, false_iff]
    omega
  · simp only [Except.ok.injEq, exists_eq', true_iff]
    omega

theorem not_illegalWord_iff_mem (w : BitVec 8) :
    ¬ IllegalWord w ↔ w ∈ [0x01, 0x02, 0x03, 0x04, 0x05, 0x06, 0x07, 0x08, 0x16, 0x17] := by
  simp only [IllegalWord, ne_eq, not_or, not_and, not_not, List.mem_cons, List.not_mem_nil, or_false, BitVec.ofNat_eq_ofNat,
    ← BitVec.toNat_inj, BitVec.toNat_ofNat, Nat.reducePow, Nat.reduceMod]
  omega

/-- Settles O1: each of the ten words by evaluation; the words that decode are those that no test of R52 finds illegal. -/
theorem legalWordsDecode : Obligations.LegalWordsDecode :=
  ⟨rfl, rfl, rfl, rfl, rfl, rfl, rfl, rfl, rfl, rfl,
    fun w => (exists_decode_ok_iff w).trans (not_illegalWord_iff_mem w)⟩

end Sys2Proof

namespace Sys2Proof.Machine

open Sys2Proof

/-! ### A command word written to CMD -/

/-- A pending write to CMD runs its word, with the write taken off the port and answered (20_memory.md R32, R40). -/
theorem step_of_commandWrite {s : State} {w : BitVec 8} {rest : List HostEvent}
    (h : s.host.pending = commandWrite w.toNat :: rest) :
    step s = runWord w { s with host := { pending := rest, response := some .done } } := by
  rw [step_of_pending h, serveEvent, commandWord_commandWrite]
  rfl

/-- R52 in numbers, with what an illegal word and a legal one do. -/
theorem runWord_eq (w : BitVec 8) (s : State) :
    runWord w s =
      if w.toNat / 32 ≠ 0 then .next (raise .illegalCommand s)
      else if w.toNat % 16 = 0 ∨ 9 ≤ w.toNat % 16 then .next (raise .illegalCommand s)
      else if w.toNat / 16 % 2 = 1 ∧ w.toNat % 16 ≠ 6 ∧ w.toNat % 16 ≠ 7 then .next (raise .illegalCommand s)
      else exec (assignedCommand (wordMode w) (w.toNat % 16)) s := by
  rw [runWord, decode_eq]
  split_ifs <;> rfl

/-- What an assigned OP executes, as the chain of R52's last line. -/
theorem exec_assignedCommand (mode : Mode) (op : Nat) (s : State) :
    exec (assignedCommand mode op) s =
      if op = 1 then exec .csum s
      else if op = 2 then exec .shuf s
      else if op = 3 then exec .unshuf s
      else if op = 4 then exec .build s
      else if op = 5 then exec .openEnv s
      else if op = 6 then exec (.enc mode) s
      else if op = 7 then exec (.dec mode) s
      else exec .genkey s := by
  simp only [assignedCommand, apply_ite (exec · s)]

/-- Settles O3: the step runs the word, whose tests and command `runWord_eq` gives in numbers. -/
theorem commandWordRunsByItsFields : Obligations.CommandWordRunsByItsFields := by
  unfold Obligations.CommandWordRunsByItsFields
  intro w s rest hp rsv m op s' illegal mode
  rw [step_of_commandWrite hp, runWord_eq, exec_assignedCommand]
  rfl

theorem runWord_of_illegalWord {w : BitVec 8} (h : IllegalWord w) (s : State) :
    runWord w s = .next (raise .illegalCommand s) :=
  (runWord_cases w s).resolve_left fun ⟨i, hi, _⟩ => (exists_decode_ok_iff w).1 ⟨i, hi⟩ h

/-- Settles O4: the step runs the word, and an illegal one only raises IllegalCommand; the illegal words are counted. -/
theorem illegalWordChangesOnlyStatus : Obligations.IllegalWordChangesOnlyStatus := by
  unfold Obligations.IllegalWordChangesOnlyStatus
  constructor
  · intro s w rest hp hw
    rw [step_of_commandWrite hp, runWord_of_illegalWord hw]
    rfl
  · decide +kernel

end Sys2Proof.Machine
end

section
/-!
PROOFS. The checksum accumulator and the command CSUM (40_checksum.md).
-/

namespace Sys2Proof.Machine

open Sys2Proof

/-! ### The accumulator -/

/-- One byte in numbers (R61): it fits the accumulator, so only its low 8 bits are met, and the product wraps at 64 bits. -/
theorem accAbsorb_toNat (p : Params) (a : Word64) (b : Byte) :
    (accAbsorb p a b).toNat = ((a.toNat ^^^ b.toNat) * p.fnvPrime.toNat) % 2 ^ 64 := by
  have hb : (b.zeroExtend 64).toNat = b.toNat := BitVec.toNat_setWidth_of_le (by decide)
  rw [accAbsorb, BitVec.toNat_mul, BitVec.toNat_xor, hb]

@[simp] theorem checksum_nil (p : Params) : checksum p [] = p.fnvOffset := rfl

/-- The last byte is absorbed last (R62). -/
theorem checksum_append_singleton (p : Params) (xs : List Byte) (b : Byte) :
    checksum p (xs ++ [b]) = accAbsorb p (checksum p xs) b :=
  List.foldl_concat (accAbsorb p) (accInit p) b xs

/-! ### CSUM -/

theorem execCsum_of_fits {s : State} (h : ContentFits s) :
    execCsum s = .next (finish false { s with acc := checksum s.params (content s) }) := by
  obtain ⟨hover, _⟩ | ⟨_, hs⟩ := execCsum_cases s
  · exact absurd h hover
  · exact hs

theorem execCsum_of_overflow {s : State} (h : ¬ ContentFits s) : execCsum s = .next (raise .bufferOverflow s) := by
  obtain ⟨_, hs⟩ | ⟨hfits, _⟩ := execCsum_cases s
  · exact hs
  · exact absurd hfits h

/-! ### The statements -/

/-- Settles O10: the start by definition, one byte by `accAbsorb_toNat`. -/
theorem accumulatorAbsorbsOneByte : Obligations.AccumulatorAbsorbsOneByte :=
  fun p a b => ⟨rfl, accAbsorb_toNat p a b⟩

/-- Settles O11: the last byte is one more `accAbsorb`, which `accAbsorb_toNat` gives in numbers. -/
theorem checksumAbsorbsInAscendingOrder : Obligations.ChecksumAbsorbsInAscendingOrder := by
  unfold Obligations.ChecksumAbsorbsInAscendingOrder
  intro p
  refine ⟨checksum_nil p, fun xs b => ?_⟩
  rw [checksum_append_singleton, accAbsorb_toNat]

/-- Settles O13: CSUM's two outcomes, told apart by whether the content fits. -/
theorem csumComputesTheChecksum : Obligations.CsumComputesTheChecksum := by
  unfold Obligations.CsumComputesTheChecksum
  constructor
  · intro s hfits
    rw [← content_eq_map]
    exact execCsum_of_fits hfits
  · intro s hover
    exact execCsum_of_overflow (Nat.not_le.2 hover)

end Sys2Proof.Machine
end

section
/-!
PROOFS. The permutation engine and the commands SHUF and UNSHUF (41_permutation.md): the index sequence, one swap step, and shuffle and
unshuffle as one permutation of positions and its inverse.
-/

namespace Sys2Proof.Machine

open Sys2Proof

/-! ### The index sequence -/

theorem getElem?_indexSeq (p : Params) (key : List Byte) {n i : Nat} (hi : i < n) :
    (indexSeq p key n)[i]? = some (block p key i % n) := by
  simp [indexSeq, hi]

/-- Settles O15: the entries are read off the definition, and a remainder modulo `n` is below `n`. -/
theorem indexIsBlockModuloLength : Obligations.IndexIsBlockModuloLength := by
  unfold Obligations.IndexIsBlockModuloLength
  intro p key n
  exact ⟨length_indexSeq p key n, fun i hi => ⟨getElem?_indexSeq p key hi, Nat.mod_lt _ (Nat.zero_lt_of_lt hi)⟩⟩

/-! ### One swap step -/

theorem getElem?_swapBytes {b : List Byte} {i j : Nat} (hi : i < b.length) (hj : j < b.length) (k : Nat) :
    (swapBytes b i j)[k]? = b[Equiv.swap i j k]? := by
  rw [swapBytes, Equiv.swap_apply_def]
  split_ifs with hki hkj
  · subst hki
    by_cases hjk : j = k <;> simp [hi, hj, hjk]
  · subst hkj
    simp [hi, hj]
  · simp [Ne.symm hki, Ne.symm hkj]

/-- What a swap step leaves at `k`; the case `i = J[i]` is the swap that moves nothing. -/
theorem getElem?_swapStep {J : List Nat} {b : List Byte} {i : Nat} (hi : i < b.length) (hj : J.getD i i < b.length) (k : Nat) :
    (swapStep J b i)[k]? = b[Equiv.swap i (J.getD i i) k]? := by
  rw [swapStep]
  split_ifs with h
  · exact getElem?_swapBytes hi hj k
  · rw [← not_not.1 h, Equiv.swap_self, Equiv.refl_apply]

theorem swapStep_swapStep {J : List Nat} {b : List Byte} {i : Nat} (hi : i < b.length) (hj : J.getD i i < b.length) :
    swapStep J (swapStep J b i) i = b := by
  apply List.ext_getElem?
  intro k
  rw [getElem?_swapStep (by simpa using hi) (by simpa using hj), getElem?_swapStep hi hj, Equiv.swap_apply_self]

/-- A swap step moves bytes and changes none. -/
theorem swapStep_perm {J : List Nat} {b : List Byte} {i : Nat} (hi : i < b.length) (hj : J.getD i i < b.length) :
    (swapStep J b i).Perm b := by
  rw [swapStep]
  split_ifs
  · rw [swapBytes, List.getD_eq_getElem _ _ hi, List.getD_eq_getElem _ _ hj]
    exact List.set_set_perm hi hj
  · exact .refl b

/-- Settles O16: a step reads through the transposition of `i` and `J[i]`, which is its own inverse. -/
theorem swapStepIsItsOwnInverse : Obligations.SwapStepIsItsOwnInverse := by
  unfold Obligations.SwapStepIsItsOwnInverse
  intro J b i j hJ hi hj
  have hget : J.getD i i = j := by simp [hJ]
  have hread (k : Nat) : (swapStep J b i)[k]? = b[Equiv.swap i j k]? := by
    rw [getElem?_swapStep hi (hget ▸ hj), hget]
  refine ⟨?_, ?_, fun k hki hkj => ?_, swapStep_swapStep hi (hget ▸ hj)⟩
  · rw [hread, Equiv.swap_apply_left]
  · rw [hread, Equiv.swap_apply_right]
  · rw [hread, Equiv.swap_apply_of_ne_of_ne hki hkj]

/-! ### The permutation of positions

A run of swap steps reads through the product of their transpositions; the reverse run reads through the inverse of that product. -/

/-- The transposition of positions of `step(i)` (R70). -/
def stepPositions (p : Params) (key : List Byte) {n : Nat} (i : Fin n) : Equiv.Perm (Fin n) :=
  Equiv.swap i ⟨(indexSeq p key n).getD i i, indexSeq_getD_lt p key n i i.isLt⟩

theorem stepPositions_inv (p : Params) (key : List Byte) {n : Nat} (i : Fin n) :
    (stepPositions p key i)⁻¹ = stepPositions p key i := Equiv.swap_inv _ _

/-- Where shuffle takes the byte at each position from: the transpositions in the order of its steps (R71). -/
def shuffleSource (p : Params) (key : List Byte) (n : Nat) : Equiv.Perm (Fin n) :=
  ((List.finRange n).map (stepPositions p key)).prod

theorem prod_stepPositions_reverse (p : Params) (key : List Byte) (n : Nat) :
    ((List.finRange n).reverse.map (stepPositions p key)).prod = (shuffleSource p key n)⁻¹ := by
  rw [shuffleSource, List.prod_inv_reverse, List.map_map, List.map_reverse]
  simp only [Function.comp_def, stepPositions_inv]

section
variable {p : Params} {key b : List Byte} {n : Nat} (hb : b.length = n)
include hb

/-- Both positions of a step lie inside the content (R69). -/
theorem indexSeq_inside {i : Nat} (hi : i < n) : i < b.length ∧ (indexSeq p key n).getD i i < b.length := by
  rw [hb]
  exact ⟨hi, indexSeq_getD_lt p key n i hi⟩

theorem getElem?_swapStep_indexSeq (i x : Fin n) :
    (swapStep (indexSeq p key n) b i)[x.val]? = b[(stepPositions p key i x).val]? := by
  obtain ⟨hi, hj⟩ := indexSeq_inside (p := p) (key := key) hb i.isLt
  rw [getElem?_swapStep hi hj, stepPositions, Fin.val_injective.map_swap]

theorem getElem?_foldl_swapStep (is : List (Fin n)) (x : Fin n) :
    ((is.map Fin.val).foldl (swapStep (indexSeq p key n)) b)[x.val]? =
      b[((is.map (stepPositions p key)).prod x).val]? := by
  induction is generalizing b with
  | nil => rfl
  | cons i is ih =>
    simp only [List.map_cons, List.foldl_cons, List.prod_cons, Equiv.Perm.mul_apply]
    rw [ih (by simpa using hb), getElem?_swapStep_indexSeq hb]

theorem getElem?_shuffleBytes (x : Fin n) :
    (shuffleBytes (indexSeq p key n) b)[x.val]? = b[(shuffleSource p key n x).val]? := by
  rw [shuffleBytes, hb, ← List.map_coe_finRange_eq_range, getElem?_foldl_swapStep hb, shuffleSource]

theorem getElem?_unshuffleBytes (x : Fin n) :
    (unshuffleBytes (indexSeq p key n) b)[x.val]? = b[((shuffleSource p key n)⁻¹ x).val]? := by
  rw [unshuffleBytes, hb, ← List.map_coe_finRange_eq_range, ← List.map_reverse, getElem?_foldl_swapStep hb,
    prod_stepPositions_reverse]

/-- Swap steps move bytes and change none. -/
theorem foldl_swapStep_perm {is : List Nat} (his : ∀ i ∈ is, i < n) :
    (is.foldl (swapStep (indexSeq p key n)) b).Perm b := by
  induction is generalizing b with
  | nil => exact .refl b
  | cons i is ih =>
    obtain ⟨hi, his⟩ := List.forall_mem_cons.1 his
    obtain ⟨hib, hjb⟩ := indexSeq_inside (p := p) (key := key) hb hi
    exact (ih (by simpa using hb) his).trans (swapStep_perm hib hjb)

/-- The same swap steps in the reverse order restore the bytes. -/
theorem foldl_reverse_foldl_swapStep {is : List Nat} (his : ∀ i ∈ is, i < n) :
    is.reverse.foldl (swapStep (indexSeq p key n)) (is.foldl (swapStep (indexSeq p key n)) b) = b := by
  induction is generalizing b with
  | nil => rfl
  | cons i is ih =>
    obtain ⟨hi, his⟩ := List.forall_mem_cons.1 his
    obtain ⟨hib, hjb⟩ := indexSeq_inside (p := p) (key := key) hb hi
    rw [List.reverse_cons, List.foldl_concat, List.foldl_cons, ih (by simpa using hb) his]
    exact swapStep_swapStep hib hjb

theorem shuffleBytes_perm : (shuffleBytes (indexSeq p key n) b).Perm b :=
  foldl_swapStep_perm hb (by simp [hb])

theorem unshuffleBytes_perm : (unshuffleBytes (indexSeq p key n) b).Perm b :=
  foldl_swapStep_perm hb (by simp [hb])

theorem unshuffleBytes_shuffleBytes : unshuffleBytes (indexSeq p key n) (shuffleBytes (indexSeq p key n) b) = b := by
  have hlen := (shuffleBytes_perm (p := p) (key := key) hb).length_eq
  rw [unshuffleBytes, hlen]
  exact foldl_reverse_foldl_swapStep hb (by simp [hb])

theorem shuffleBytes_unshuffleBytes : shuffleBytes (indexSeq p key n) (unshuffleBytes (indexSeq p key n) b) = b := by
  have hlen := (unshuffleBytes_perm (p := p) (key := key) hb).length_eq
  rw [shuffleBytes, hlen, ← (List.range b.length).reverse_reverse]
  exact foldl_reverse_foldl_swapStep hb (by simp [hb])

end

/-! ### Shuffle and unshuffle differ in general -/

/-- A keystream whose blocks 0, 1 and 2 are the numbers 1, 2 and 2. -/
def rotatingParams : Params where
  bufcap := ⟨24, by decide, by decide⟩
  fnvOffset := 0
  fnvPrime := 0
  ksKnown := [([1], [1, 0, 0, 0, 0, 0, 0, 0, 2, 0, 0, 0, 0, 0, 0, 0, 2, 0, 0, 0, 0, 0, 0, 0])]

/-- Its swap steps over three bytes exchange positions 0 and 1, then 1 and 2: shuffle rotates, and unshuffle rotates back. -/
theorem indexSeq_rotatingParams : indexSeq rotatingParams [1] 3 = [1, 2, 2] := by decide

theorem exists_shuffle_ne_unshuffle : ∃ (p : Params) (key b : List Byte),
    let J := indexSeq p key b.length
    shuffleBytes J b ≠ unshuffleBytes J b ∧ shuffleBytes J (shuffleBytes J b) ≠ b ∧
      unshuffleBytes J (unshuffleBytes J b) ≠ b := by
  refine ⟨rotatingParams, [1], [10, 11, 12], ?_⟩
  intro J
  have hJ : J = [1, 2, 2] := indexSeq_rotatingParams
  clear_value J
  subst hJ
  decide

/-- Settles O18: shuffle reads through `shuffleSource` and unshuffle through its inverse, so the byte at `x` moves to
`shuffleSource⁻¹ x` and back; the three bytes of `rotatingParams` tell the directions apart. -/
theorem permutationIsABijection : Obligations.PermutationIsABijection := by
  unfold Obligations.PermutationIsABijection
  refine ⟨fun p key n => ⟨(shuffleSource p key n)⁻¹, fun b hb => ⟨fun x => ?_, fun x => ?_, ?_, ?_⟩⟩,
    exists_shuffle_ne_unshuffle⟩
  · rw [getElem?_shuffleBytes hb, Equiv.Perm.coe_inv, Equiv.apply_symm_apply]
  · exact getElem?_unshuffleBytes hb x
  · exact shuffleBytes_perm hb
  · exact unshuffleBytes_perm hb

/-! ### SHUF and UNSHUF undo each other -/

/-- The direction that undoes a direction (R75). -/
def Direction.inverse : Direction → Direction
  | .shuffle => .unshuffle
  | .unshuffle => .shuffle

theorem permuteBytes_inverse_permuteBytes (d : Direction) {p : Params} {key b : List Byte} {n : Nat} (hb : b.length = n) :
    permuteBytes d.inverse (indexSeq p key n) (permuteBytes d (indexSeq p key n) b) = b := by
  cases d with
  | shuffle => exact unshuffleBytes_shuffleBytes hb
  | unshuffle => exact shuffleBytes_unshuffleBytes hb

/-- The inverse direction runs under the same parameters, key and length, which the first command and its end leave as they were. -/
theorem content_permuteContent_inverse (d : Direction) (s : State) :
    content (permuteContent d.inverse (finish false (permuteContent d s))) = content s := by
  have hlen : lenNat (permuteContent d s) = lenNat s := by simp [lenNat]
  rw [content_permuteContent, content_finish, content_permuteContent, keyOf_finish, keyOf_permuteContent,
    finish_params, permuteContent_params]
  exact permuteBytes_inverse_permuteBytes d (length_content s)

theorem bufByte_of_content_eq {s t : State} (h : content t = content s) {a : Nat} (ha : a < s.len.toNat) :
    bufByte t a = bufByte s a := by
  have ht : a < t.len.toNat := by
    rw [← length_content t, h, length_content]
    exact ha
  rw [← getElem_content t a (by simpa using ht), ← getElem_content s a (by simpa using ha)]
  simp only [h]

theorem bufByte_permuteContent_inverse (d : Direction) (s : State) (a : Nat) :
    bufByte (permuteContent d.inverse (finish false (permuteContent d s))) a = bufByte s a := by
  rcases Nat.lt_or_ge a s.len.toNat with ha | ha
  · exact bufByte_of_content_eq (content_permuteContent_inverse d s) ha
  · rw [bufByte_permuteContent_above _ _ a (by simpa using ha), bufByte_finish, bufByte_permuteContent_above d s a ha]

/-- A permutation command and then that of the inverse direction end without error and leave every byte of BUF as it was. -/
theorem execPermute_inverse_restores (d : Direction) {s : State} (hkey : KeyOk s) (hfits : ContentFits s)
    (hks : s.dev.ksAnswers = true) :
    ∃ t u, execPermute d s = .next t ∧ execPermute d.inverse t = .next u ∧ ∀ a, bufByte u a = bufByte s a := by
  obtain ⟨hpos, hmax⟩ := hkey
  refine ⟨_, _, execPermute_next hpos hmax hfits hks, execPermute_next ?_ ?_ ?_ ?_, fun a => ?_⟩
  · simpa using hpos
  · simpa using hmax
  · simpa [ContentFits] using hfits
  · simpa using hks
  · rw [bufByte_finish, bufByte_permuteContent_inverse]

/-- Settles O20: on bytes the steps in reverse order restore them; as commands, `execPermute_inverse_restores` in each direction. -/
theorem shuffleAndUnshuffleAreInverse : Obligations.ShuffleAndUnshuffleAreInverse := by
  unfold Obligations.ShuffleAndUnshuffleAreInverse
  refine ⟨fun p key b => ⟨unshuffleBytes_shuffleBytes rfl, shuffleBytes_unshuffleBytes rfl⟩, fun s hpos hmax hfits hks => ⟨?_, ?_⟩⟩
  · exact execPermute_inverse_restores .shuffle ⟨hpos, hmax⟩ hfits hks
  · exact execPermute_inverse_restores .unshuffle ⟨hpos, hmax⟩ hfits hks

end Sys2Proof.Machine
end

section
/-!
PROOFS. The XOR layer (42_xor_datapath.md), read byte by byte.
-/

namespace Sys2Proof.Machine

open Sys2Proof

/-- Where the message, the mask and the key have their bytes, the layer has their XOR (R80). -/
theorem getElem?_xorLayer {mask key s : List Byte} {i : Nat} {x m k : Byte} (hs : s[i]? = some x)
    (hmask : mask[i % maskBytes]? = some m) (hkey : key[i % key.length]? = some k) :
    (xorLayer mask key s)[i]? = some (x ^^^ m ^^^ k) := by
  obtain ⟨hi, hx⟩ := List.getElem?_eq_some_iff.1 hs
  have hi' : i < (xorLayer mask key s).length := by simpa using hi
  rw [List.getElem?_eq_getElem hi', getElem_xorLayer, hx, List.getD_eq_getElem?_getD, List.getD_eq_getElem?_getD, hmask,
    hkey, Option.getD_some, Option.getD_some]

/-- A mask byte and a key byte cancel when both are applied a second time. -/
theorem xor_mask_key_twice (x m k : Byte) : x ^^^ m ^^^ k ^^^ m ^^^ k = x := by
  rw [BitVec.xor_assoc x m k, BitVec.xor_assoc (x ^^^ (m ^^^ k)) m k, BitVec.xor_assoc, BitVec.xor_self, BitVec.xor_zero]

/-- The layer XORs a byte with values of its position only, so a second layer cancels the first (R81). -/
theorem xorLayer_xorLayer (mask key s : List Byte) : xorLayer mask key (xorLayer mask key s) = s := by
  apply List.ext_getElem
  · rw [length_xorLayer, length_xorLayer]
  · intro i _ _
    rw [getElem_xorLayer, getElem_xorLayer, xor_mask_key_twice]

/-! ### The statements -/

/-- Settles O23: `xorLayer_xorLayer`, for masks and keys of every length. -/
theorem xorLayerIsItsOwnInverse : Obligations.XorLayerIsItsOwnInverse :=
  fun mask key s _ _ _ => xorLayer_xorLayer mask key s

/-- Settles O22: the length is the message's, and `getElem?_xorLayer` gives each byte. -/
theorem xorLayerIsBytewise : Obligations.XorLayerIsBytewise :=
  fun mask key s _ _ _ => ⟨length_xorLayer mask key s, fun _ _ _ _ => getElem?_xorLayer⟩

end Sys2Proof.Machine
end

section
/-!
PROOFS. The envelope framer and the commands BUILD and OPEN (43_envelope.md): the fields of a frame by position, and the bytes of BUF that
the two commands leave, read off the content as an envelope.
-/

namespace Sys2Proof.Machine

open Sys2Proof

/-! ### Byte order in numbers -/

theorem getElem?_le64 (v : Word64) {k : Nat} (hk : k < 8) : (le64 v)[k]? = some (v.extractLsb' (8 * k) 8) := by
  have hk' : k < (le64 v).length := by simpa using hk
  rw [List.getElem?_eq_getElem hk', getElem_le64]

/-- The weights of 00_scope.md R8, for every number of bytes. -/
theorem leNat_eq_sum (b : List Byte) : leNat b = ∑ k ∈ Finset.range b.length, (b.getD k 0).toNat * 2 ^ (8 * k) := by
  induction b with
  | nil => rfl
  | cons x xs ih =>
    have hweight (k : Nat) : 2 ^ (8 * (k + 1)) = 2 ^ 8 * 2 ^ (8 * k) := by rw [← Nat.pow_add]; congr 1; omega
    rw [leNat, ih, List.length_cons, Finset.sum_range_succ', Finset.mul_sum, Nat.add_comm]
    simp only [List.getD_cons_succ, List.getD_cons_zero, hweight, Nat.mul_left_comm]
    simp

/-- Eight bytes are below `2^64`, so nothing is lost. -/
theorem fromLe64_toNat {b : List Byte} (hb : b.length = 8) :
    (fromLe64 b).toNat = ∑ k ∈ Finset.range 8, (b.getD k 0).toNat * 2 ^ (8 * k) := by
  have hlt := leNat_lt b
  rw [hb] at hlt
  rw [fromLe64, BitVec.toNat_ofNat, Nat.mod_eq_of_lt hlt, leNat_eq_sum, hb]

/-! ### The fields of an envelope by position (R86, R87) -/

theorem parseChecksum_toNat {e : List Byte} (he : 24 ≤ e.length) :
    (parseChecksum e).toNat = ∑ k ∈ Finset.range 8, (e.getD k 0).toNat * 2 ^ (8 * k) := by
  have hlen : (e.take ckBytes).length = 8 := by simp [ckBytes]; omega
  rw [parseChecksum, fromLe64_toNat hlen]
  refine Finset.sum_congr rfl fun k hk => ?_
  rw [List.getD_eq_getElem?_getD, List.getElem?_take_of_lt (Finset.mem_range.1 hk), List.getD_eq_getElem?_getD]

theorem length_parseMask {e : List Byte} (he : 24 ≤ e.length) : (parseMask e).length = 16 := by
  simp [parseMask, ckBytes, maskBytes]
  omega

theorem getElem?_parseMask (e : List Byte) {k : Nat} (hk : k < 16) : (parseMask e)[k]? = e[8 + k]? := by
  rw [parseMask, List.getElem?_take_of_lt hk, List.getElem?_drop]

theorem length_parseCiphertext (e : List Byte) : (parseCiphertext e).length = e.length - 24 := List.length_drop

theorem getElem?_parseCiphertext (e : List Byte) (i : Nat) : (parseCiphertext e)[i]? = e[24 + i]? := List.getElem?_drop

theorem parseChecksum_frame (h : Word64) (mask ct : List Byte) : parseChecksum (frame h mask ct) = h := by
  rw [parseChecksum, frame, List.append_assoc, List.take_left' (length_le64 h), fromLe64_le64]

section
variable {mask : List Byte} (hmask : mask.length = 16)
include hmask

theorem parseMask_frame (h : Word64) (ct : List Byte) : parseMask (frame h mask ct) = mask := by
  rw [parseMask, frame, List.append_assoc, List.drop_left' (length_le64 h), List.take_left' hmask]

theorem parseCiphertext_frame (h : Word64) (ct : List Byte) : parseCiphertext (frame h mask ct) = ct :=
  List.drop_left' (by simp [hmask])

/-- Opening what was framed under the same mask and key gives the message: the second layer cancels the first (R81). -/
theorem recoveredMessage_frame (h : Word64) (key msg : List Byte) :
    recoveredMessage key (frame h mask (xorLayer mask key msg)) = msg := by
  rw [recoveredMessage, parseMask_frame hmask, parseCiphertext_frame hmask, xorLayer_xorLayer]

/-- The mask field of a frame, by the position at which parsing finds it. -/
theorem getElem?_frame_mask (h : Word64) (ct : List Byte) {k : Nat} (hk : k < 16) : (frame h mask ct)[8 + k]? = mask[k]? := by
  rw [← getElem?_parseMask _ hk, parseMask_frame hmask]

/-- The ciphertext field of a frame, by the position at which parsing finds it. -/
theorem getElem?_frame_ciphertext (h : Word64) (ct : List Byte) (i : Nat) : (frame h mask ct)[24 + i]? = ct[i]? := by
  rw [← getElem?_parseCiphertext, parseCiphertext_frame hmask]

end

theorem getElem?_frame_checksum (h : Word64) (mask ct : List Byte) {k : Nat} (hk : k < 8) :
    (frame h mask ct)[k]? = some (h.extractLsb' (8 * k) 8) := by
  rw [frame, List.append_assoc, List.getElem?_append_left (by simpa using hk), getElem?_le64 h hk]

/-- Settles O24: the three fields of a frame and of any envelope, by the lemmas of this section. -/
theorem parseInvertsFrame : Obligations.ParseInvertsFrame := by
  unfold Obligations.ParseInvertsFrame
  constructor
  · intro h mask ct hmask
    refine ⟨by simp [hmask], fun k hk => ?_, fun k => getElem?_frame_mask hmask h ct, getElem?_frame_ciphertext hmask h ct,
      parseChecksum_frame h mask ct, parseMask_frame hmask h ct, parseCiphertext_frame hmask h ct⟩
    rw [getElem?_frame_checksum h mask ct hk, BitVec.extractLsb', Nat.shiftRight_eq_div_pow]
  · intro e he
    exact ⟨parseChecksum_toNat he, length_parseMask he, fun k => getElem?_parseMask e, length_parseCiphertext e,
      getElem?_parseCiphertext e⟩

/-! ### The content, the key, the drawn bytes and MASK by position -/

theorem getElem?_content (s : State) {a : Nat} (ha : a < s.len.toNat) : (content s)[a]? = some (bufByte s a) := by
  have ha' : a < (content s).length := by simpa using ha
  rw [List.getElem?_eq_getElem ha', getElem_content]

theorem getElem?_keyOf (s : State) {a : Nat} (ha : a < s.klen.toNat) : (keyOf s)[a]? = some (keyByte s a) := by
  have ha' : a < (keyOf s).length := by simpa using ha
  rw [List.getElem?_eq_getElem ha', getElem_keyOf]

/-- The key byte that the XOR datapath uses at position `i` (R80). -/
theorem getElem?_keyOf_mod {s : State} (hkey : KeyOk s) (i : Nat) :
    (keyOf s)[i % (keyOf s).length]? = some (keyByte s (i % s.klen.toNat)) := by
  rw [length_keyOf, getElem?_keyOf s (Nat.mod_lt _ hkey.1)]

theorem getElem?_rngBytes (d : Devices) {n k : Nat} (hk : k < n) : (rngBytes n d)[k]? = some (rngByteAt d k) := by
  have hk' : k < (rngBytes n d).length := by simpa using hk
  rw [List.getElem?_eq_getElem hk', getElem_rngBytes]

theorem getElem_maskOf {b : List Byte} {k : Nat} {v : Byte} (hv : b[k]? = some v) (hk : k < 16) : (maskOf b)[k] = v := by
  rw [maskOf, Vector.getElem_ofFn, List.getD_eq_getElem?_getD, hv, Option.getD_some]

/-- What is known of the content at a position is known of BUF there. -/
theorem bufByte_of_content {s : State} {e : List Byte} (hc : content s = e) {a : Nat} {v : Byte} (hv : e[a]? = some v) :
    bufByte s a = v := by
  obtain ⟨ha, hv⟩ := List.getElem?_eq_some_iff.1 hv
  subst hc
  rw [← hv, getElem_content]

/-! ### BUILD (R88) -/

section
variable {s : State} (hfit : EnvelopeFits s)
include hfit

theorem bufByte_buildContent_checksum {k : Nat} (hk : k < 8) :
    bufByte (buildContent s) k = (checksum s.params (content s)).extractLsb' (8 * k) 8 :=
  bufByte_of_content (content_buildContent hfit) (getElem?_frame_checksum _ _ _ hk)

theorem bufByte_buildContent_mask {k : Nat} (hk : k < 16) : bufByte (buildContent s) (8 + k) = rngByteAt s.dev k :=
  bufByte_of_content (content_buildContent hfit) <| by
    rw [envelopeOf, getElem?_frame_mask (length_rngBytes ..) _ _ hk, getElem?_rngBytes _ hk]

theorem bufByte_buildContent_ciphertext (hkey : KeyOk s) {i : Nat} (hi : i < s.len.toNat) :
    bufByte (buildContent s) (24 + i) = bufByte s i ^^^ rngByteAt s.dev (i % 16) ^^^ keyByte s (i % s.klen.toNat) :=
  bufByte_of_content (content_buildContent hfit) <| by
    rw [envelopeOf, getElem?_frame_ciphertext (length_rngBytes ..)]
    exact getElem?_xorLayer (getElem?_content s hi) (getElem?_rngBytes _ (Nat.mod_lt _ (by decide))) (getElem?_keyOf_mod hkey i)

end

/-- Settles O25: BUILD's checks pass, its content is the frame of the message, and the rest of the state is read off `buildContent`. -/
theorem buildMakesTheEnvelope : Obligations.BuildMakesTheEnvelope := by
  unfold Obligations.BuildMakesTheEnvelope
  intro s hpos hmax hfit hrng
  refine ⟨finish false (buildContent s), execBuild_next hpos hmax hfit hrng, ?_⟩
  simp only [bufByte_finish, finish_len, finish_acc, finish_mask, buildContent_acc, buildContent_mask]
  refine ⟨fun k => bufByte_buildContent_checksum hfit, fun k => bufByte_buildContent_mask hfit,
    fun i => bufByte_buildContent_ciphertext hfit ⟨hpos, hmax⟩, bufByte_buildContent_above s, len_buildContent hfit, ?_,
    fun k hk => getElem_maskOf (getElem?_rngBytes _ hk) hk, ?_⟩
  · rw [content_eq_map]
  · apply State.ext <;> simp

/-! ### OPEN (R89) -/

section
variable {s : State} (h24 : 24 ≤ s.len.toNat)
include h24

theorem getElem?_parseMask_content {k : Nat} (hk : k < 16) : (parseMask (content s))[k]? = some (bufByte s (8 + k)) := by
  rw [getElem?_parseMask _ hk, getElem?_content s (by omega)]

theorem bufByte_openContent_message (hkey : KeyOk s) {i : Nat} (hi : i < s.len.toNat - 24) :
    bufByte (openContent s) i = bufByte s (24 + i) ^^^ bufByte s (8 + i % 16) ^^^ keyByte s (i % s.klen.toNat) := by
  have hct : (parseCiphertext (content s))[i]? = some (bufByte s (24 + i)) := by
    rw [getElem?_parseCiphertext, getElem?_content s (by omega)]
  have hmask := getElem?_parseMask_content h24 (Nat.mod_lt i (by decide : 0 < 16))
  exact bufByte_of_content (content_openContent s) (getElem?_xorLayer hct hmask (getElem?_keyOf_mod hkey i))

theorem parseChecksum_content_toNat :
    (parseChecksum (content s)).toNat = ∑ k ∈ Finset.range 8, (bufByte s k).toNat * 2 ^ (8 * k) := by
  rw [parseChecksum_toNat (by simpa using h24)]
  refine Finset.sum_congr rfl fun k hk => ?_
  have hk8 := Finset.mem_range.1 hk
  rw [List.getD_eq_getElem?_getD, getElem?_content s (by omega), Option.getD_some]

end

/-- Settles O26: OPEN's checks pass, its content is the recovered message, and the fields are those of the content as an envelope. -/
theorem openRecoversTheMessage : Obligations.OpenRecoversTheMessage := by
  unfold Obligations.OpenRecoversTheMessage
  intro s hpos hmax h24 hfit
  refine ⟨finishOpen (openContent s), execOpen_next hpos hmax h24 hfit, ?_⟩
  simp only [bufByte_finishOpen, content_finishOpen, finishOpen_len, finishOpen_acc, finishOpen_emb, finishOpen_mask,
    finishOpen_ok, openContent_acc, openContent_emb, openContent_mask, openContent_ok]
  refine ⟨len_openContent, fun i => bufByte_openContent_message h24 ⟨hpos, hmax⟩,
    fun k hk => getElem_maskOf (getElem?_parseMask_content h24 hk) hk, parseChecksum_content_toNat h24, ?_, beq_iff_eq,
    fun a => bufByte_openContent_above s a h24, ?_⟩
  · rw [content_openContent]
  · apply State.ext <;> simp

/-! ### OPEN after BUILD (R93) -/

/-- The key that BUILD used recovers the message from its envelope. -/
theorem recoveredMessage_envelopeOf (s : State) : recoveredMessage (keyOf s) (envelopeOf s) = content s :=
  recoveredMessage_frame (length_rngBytes ..) _ _ _

/-- A state with the parameters, the key and the content that a BUILD from `s` leaves. -/
def HoldsEnvelopeOf (s t : State) : Prop := t.params = s.params ∧ keyOf t = keyOf s ∧ content t = envelopeOf s

/-- What `open()` leaves in such a state. -/
theorem openContent_of_holdsEnvelopeOf {s t : State} (ht : HoldsEnvelopeOf s t) :
    content (openContent t) = content s ∧ (openContent t).acc = checksum s.params (content s) ∧
      (openContent t).emb = checksum s.params (content s) ∧ (openContent t).mask = maskOf (rngBytes maskBytes s.dev) ∧
      (openContent t).ok = true := by
  obtain ⟨hparams, hkey, hcontent⟩ := ht
  have hmsg : recoveredMessage (keyOf t) (content t) = content s := by rw [hkey, hcontent, recoveredMessage_envelopeOf]
  have hemb : parseChecksum (content t) = checksum s.params (content s) := by rw [hcontent, envelopeOf, parseChecksum_frame]
  refine ⟨?_, ?_, ?_, ?_, ?_⟩
  · rw [content_openContent, hmsg]
  · rw [openContent_acc, hmsg, hparams]
  · rw [openContent_emb, hemb]
  · rw [openContent_mask, hcontent, envelopeOf, parseMask_frame (length_rngBytes ..)]
  · rw [openContent_ok, hmsg, hparams, hemb, beq_self_eq_true]

/-- Settles O27: the state still holds the envelope, and opening it gives back what BUILD framed. -/
theorem openUndoesBuild : Obligations.OpenUndoesBuild := by
  unfold Obligations.OpenUndoesBuild
  intro s hpos hmax hfit hrng
  refine ⟨finish false (buildContent s), execBuild_next hpos hmax hfit hrng, fun t hparams hklen hkey hlen hbuf => ?_⟩
  have htparams : t.params = s.params := by simpa using hparams
  have hholds : HoldsEnvelopeOf s t := by
    refine ⟨htparams, ?_, ?_⟩
    · rw [keyOf_congr hklen hkey, keyOf_finish, keyOf_buildContent]
    · rw [content_congr hlen hbuf, content_finish, content_buildContent hfit]
  obtain ⟨hcontent, hacc, hemb, hmask, hok⟩ := openContent_of_holdsEnvelopeOf hholds
  have htklen : t.klen = s.klen := by simpa using hklen
  have htlen : t.len.toNat = s.len.toNat + 24 := by rw [hlen, finish_len, len_buildContent hfit]
  have hopen : execOpen t = .next (finishOpen (openContent t)) := by
    apply execOpen_next
    · rwa [htklen]
    · rwa [htklen]
    · omega
    · rw [ContentFits, htlen, htparams]
      exact hfit
  refine ⟨finishOpen (openContent t), hopen, rfl, hok, ?_, fun i => bufByte_of_content_eq ((content_finishOpen _).trans hcontent), hacc,
    hemb.trans hacc.symm, hmask.trans (buildContent_mask s).symm⟩
  apply BitVec.eq_of_toNat_eq
  rw [finishOpen_len, len_openContent, htlen, Nat.add_sub_cancel]

end Sys2Proof.Machine
end

section
/-!
PROOFS. The command sequencer (44_sequencer.md): the generated key, DEC after ENC, and LEN after each command.
-/

namespace Sys2Proof.Machine

open Sys2Proof

/-! ### GENKEY (R96) -/

theorem execGenkey_next {s : State} (hrng : s.dev.rngAnswers = true) : execGenkey s = .next (finish false (generateKey s)) := by
  obtain ⟨hsilent, _⟩ | ⟨_, hnext⟩ := execGenkey_cases s
  · rw [hrng] at hsilent
    cases hsilent
  · exact hnext

/-- The generated key is the drawn bytes in the order of the draws. -/
theorem keyByte_generateKey {s : State} {a : Nat} (ha : a < 256) : keyByte (generateKey s) a = rngByteAt s.dev a := by
  have ha' : a < (rngBytes genkeyLen s.dev).length := by simpa [genkeyLen] using ha
  rw [keyByte_of_putAll (s := s) (generateKey_key s) (by simp), dif_pos (by simpa using ha')]
  simp

/-- Settles O29: GENKEY's one check is that the RNG answers; the key is `keyByte_generateKey`, the rest is read off `generateKey`. -/
theorem genkeyFillsTheKey : Obligations.GenkeyFillsTheKey := by
  unfold Obligations.GenkeyFillsTheKey
  intro s hrng
  refine ⟨finish false (generateKey s), execGenkey_next hrng, fun a ha => ?_, ?_, ?_⟩
  · rw [keyByte_finish, keyByte_generateKey ha]
  · rw [finish_klen, generateKey_klen]
  · apply State.ext <;> simp

/-! ### DEC after ENC (R100) -/

/-- DEC applies the direction that undoes the one ENC applied (R95). -/
theorem decDirection_eq_inverse (m : Mode) : decDirection m = (encDirection m).inverse := by
  cases m with
  | optimizeEncryption => rfl
  | optimizeDecryption => rfl

theorem len_eq_of_content_eq {s t : State} (h : content t = content s) : t.len = s.len := by
  apply BitVec.eq_of_toNat_eq
  rw [← length_content t, h, length_content]

/-- A permutation is undone in every state with its parameters, its key and the content it left. -/
theorem content_permuteContent_inverse_of_agree {d : Direction} {s t : State} (hparams : t.params = s.params)
    (hkey : keyOf t = keyOf s) (hcontent : content t = content (permuteContent d s)) :
    content (permuteContent d.inverse t) = content s := by
  have hlen : lenNat t = lenNat s := by rw [lenNat, len_eq_of_content_eq hcontent, permuteContent_len, lenNat]
  rw [content_permuteContent, hparams, hkey, hlen, hcontent, content_permuteContent]
  exact permuteBytes_inverse_permuteBytes d (length_content s)

/-- The permutation of DEC m brings back the envelope that ENC m permuted. -/
theorem holdsEnvelopeOf_permuteContent_decDirection {m : Mode} {s t : State} (hfit : EnvelopeFits s)
    (hparams : t.params = s.params) (hkey : keyOf t = keyOf s)
    (hcontent : content t = content (permuteContent (encDirection m) (buildContent s))) :
    HoldsEnvelopeOf s (permuteContent (decDirection m) t) := by
  refine ⟨?_, ?_, ?_⟩
  · rw [permuteContent_params, hparams]
  · rw [keyOf_permuteContent, hkey]
  · rw [decDirection_eq_inverse, ← content_buildContent hfit]
    apply content_permuteContent_inverse_of_agree _ _ hcontent
    · rw [hparams, buildContent_params]
    · rw [hkey, keyOf_buildContent]

/-- Settles O34: DEC's permutation brings back the envelope of the message, and opening that is R93. -/
theorem decUndoesEnc : Obligations.DecUndoesEnc := by
  unfold Obligations.DecUndoesEnc
  intro s m hpos hmax hfit hrng hks
  refine ⟨finish false (permuteContent (encDirection m) (buildContent s)), execEnc_next hpos hmax hfit hrng hks,
    fun t hparams hklen hkey hlen hbuf htks => ?_⟩
  have htparams : t.params = s.params := by simpa using hparams
  have htklen : t.klen = s.klen := by simpa using hklen
  have htlen : t.len.toNat = s.len.toNat + 24 := by rw [hlen, finish_len, permuteContent_len, len_buildContent hfit]
  have htkey : keyOf t = keyOf s := by rw [keyOf_congr hklen hkey, keyOf_finish, keyOf_permuteContent, keyOf_buildContent]
  have htcontent := (content_congr hlen hbuf).trans (content_finish false _)
  obtain ⟨hcontent, hacc, hemb, hmask, hok⟩ :=
    openContent_of_holdsEnvelopeOf (holdsEnvelopeOf_permuteContent_decDirection hfit htparams htkey htcontent)
  have hdec : execDec m t = .next (finishOpen (openContent (permuteContent (decDirection m) t))) := by
    apply execDec_next
    · rwa [htklen]
    · rwa [htklen]
    · omega
    · rw [ContentFits, htlen, htparams]
      exact hfit
    · exact htks
  refine ⟨_, hdec, rfl, hok, len_eq_of_content_eq hcontent, fun i => bufByte_of_content_eq hcontent, hacc,
    hemb.trans hacc.symm, hmask.trans ?_⟩
  rw [finish_mask, permuteContent_mask, buildContent_mask]

/-! ### LEN after each command (R102) -/

/-- Settles O35: a command without error has passed its checks, by which LEN neither wraps in BUILD and ENC nor ends below 0 in OPEN
and DEC; no permutation moves it. -/
theorem lengthChangesByTwentyFour : Obligations.LengthChangesByTwentyFour := by
  unfold Obligations.LengthChangesByTwentyFour
  intro i s t h he
  have hs := succeeds_of_exec_noError h he
  clear h he
  cases i with
  | csum =>
    obtain ⟨_, rfl⟩ := hs
    rfl
  | shuf =>
    obtain ⟨_, _, rfl⟩ := hs
    simp only [finish_len, permuteContent_len]
  | unshuf =>
    obtain ⟨_, _, rfl⟩ := hs
    simp only [finish_len, permuteContent_len]
  | build =>
    obtain ⟨hfit, _, rfl⟩ := hs
    simp only [finish_len, len_buildContent hfit]
  | openEnv =>
    obtain ⟨h24, _, _, rfl⟩ := hs
    simp only [finishOpen_len, len_openContent, Nat.sub_add_cancel h24]
  | enc m =>
    obtain ⟨hfit, _, rfl⟩ := hs
    simp only [finish_len, permuteContent_len, len_buildContent hfit]
  | dec m =>
    obtain ⟨h24, _, _, rfl⟩ := hs
    simp only [finishOpen_len, len_openContent, permuteContent_len, Nat.sub_add_cancel h24]
  | genkey =>
    obtain rfl : t = finish false (generateKey s) := hs
    simp only [finish_len, generateKey_len]

end Sys2Proof.Machine
end

section
/-!
PROOFS. The errors (60_exceptions.md): the code each command ends with, in the fixed order of R111, and what an error writes (R112).
-/

namespace Sys2Proof.Machine

open Sys2Proof

/-! ### The checks of R111, as chains in numbers -/

/-- The check that stands first decides, where it fails. -/
theorem getD_firstError_cons (bad : Bool) (e d : ErrCode) (rest : List (Bool × ErrCode)) :
    (firstError ((bad, e) :: rest)).getD d = if bad = true then e else (firstError rest).getD d := by
  cases bad <;> rfl

theorem getD_contentError (s : State) (d : ErrCode) :
    (contentError s).getD d = if s.params.bufcap.size < s.len.toNat then .bufferOverflow else d := by
  simp only [contentError, getD_firstError_cons, contentOverflows_iff, Nat.not_le]
  rfl

theorem not_keyOk_iff (s : State) : ¬ KeyOk s ↔ s.klen.toNat = 0 ∨ 256 < s.klen.toNat := by
  rw [KeyOk]
  omega

theorem getD_buildError (s : State) (d : ErrCode) :
    (buildError s).getD d =
      if s.klen.toNat = 0 ∨ 256 < s.klen.toNat then .invalidKeySize
      else if s.params.bufcap.size < s.len.toNat + 24 then .bufferOverflow
      else d := by
  simp only [buildError, getD_firstError_cons, keySizeBad_iff, not_keyOk_iff, envelopeOverflows_iff, Nat.not_le]
  rfl

theorem getD_openError (s : State) (d : ErrCode) :
    (openError s).getD d =
      if s.klen.toNat = 0 ∨ 256 < s.klen.toNat then .invalidKeySize
      else if s.len.toNat < 24 then .invalidDataSize
      else if s.params.bufcap.size < s.len.toNat then .bufferOverflow
      else d := by
  simp only [openError, getD_firstError_cons, keySizeBad_iff, not_keyOk_iff, dataSizeBad_iff, contentOverflows_iff,
    Nat.not_le]
  rfl

/-! ### The code each command leaves -/

theorem err_of_execCsum {s t : State} (h : execCsum s = .next t) : t.err = (contentError s).getD .noError := by
  obtain ⟨hover, hs⟩ | ⟨hfits, hs⟩ := execCsum_cases s <;> rw [hs] at h <;> cases h
  · rw [contentError_of_overflow hover]; rfl
  · rw [contentError_of_fits hfits]; rfl

/-- The key length is checked after the length of the content, by `KS.init` (R108). -/
theorem err_of_execPermute {d : Direction} {s t : State} (h : execPermute d s = .next t) :
    t.err = (contentError s).getD
      (if s.klen.toNat = 0 ∨ 256 < s.klen.toNat then .keystreamInitError else .noError) := by
  obtain ⟨hover, hs⟩ | ⟨_, _, hs⟩ | ⟨hfits, _, hkey, hs⟩ | ⟨hfits, _, hkey, hs⟩ := execPermute_cases d s <;>
    rw [hs] at h <;> cases h
  · rw [contentError_of_overflow hover]; rfl
  · rw [contentError_of_fits hfits, if_pos ((not_keyOk_iff s).1 hkey)]; rfl
  · rw [contentError_of_fits hfits, if_neg fun hbad => (not_keyOk_iff s).2 hbad hkey]; rfl

theorem err_of_execBuild {s t : State} (h : execBuild s = .next t) : t.err = (buildError s).getD .noError := by
  obtain ⟨hkey, hs⟩ | ⟨hkey, hover, hs⟩ | ⟨_, _, _, hs⟩ | ⟨hkey, hfits, _, hs⟩ := execBuild_cases s <;>
    rw [hs] at h <;> cases h
  · rw [buildError_of_badKey hkey]; rfl
  · rw [buildError_of_overflow hkey hover]; rfl
  · rw [buildError_of_ok hkey hfits]; rfl

theorem err_of_execEnc {m : Mode} {s t : State} (h : execEnc m s = .next t) : t.err = (buildError s).getD .noError := by
  obtain ⟨hkey, hs⟩ | ⟨hkey, hover, hs⟩ | ⟨_, _, _, hs⟩ | ⟨_, _, _, _, hs⟩ | ⟨hkey, hfits, _, _, hs⟩ :=
    execEnc_cases m s <;> rw [hs] at h <;> cases h
  · rw [buildError_of_badKey hkey]; rfl
  · rw [buildError_of_overflow hkey hover]; rfl
  · rw [buildError_of_ok hkey hfits]; rfl

theorem err_of_execOpen {s t : State} (h : execOpen s = .next t) : t.err = (openError s).getD .noError := by
  obtain ⟨hkey, hs⟩ | ⟨hkey, hshort, hs⟩ | ⟨hkey, h24, hover, hs⟩ | ⟨hkey, h24, hfits, hs⟩ := execOpen_cases s <;>
    rw [hs] at h <;> cases h
  · rw [openError_of_badKey hkey]; rfl
  · rw [openError_of_short hkey hshort]; rfl
  · rw [openError_of_overflow hkey h24 hover]; rfl
  · rw [openError_of_ok hkey h24 hfits]; rfl

theorem err_of_execDec {m : Mode} {s t : State} (h : execDec m s = .next t) : t.err = (openError s).getD .noError := by
  obtain ⟨hkey, hs⟩ | ⟨hkey, hshort, hs⟩ | ⟨hkey, h24, hover, hs⟩ | ⟨_, _, _, _, hs⟩ | ⟨hkey, h24, hfits, _, hs⟩ :=
    execDec_cases m s <;> rw [hs] at h <;> cases h
  · rw [openError_of_badKey hkey]; rfl
  · rw [openError_of_short hkey hshort]; rfl
  · rw [openError_of_overflow hkey h24 hover]; rfl
  · rw [openError_of_ok hkey h24 hfits]; rfl

theorem err_of_execGenkey {s t : State} (h : execGenkey s = .next t) : t.err = .noError := by
  obtain ⟨_, hs⟩ | ⟨_, hs⟩ := execGenkey_cases s <;> rw [hs] at h
  · cases h
  · rw [← next_inj h, finish_err]

/-- Settles O40: an illegal word ends before any check of a command; a legal one ends with the code of its checks, which the chains give
in numbers. -/
theorem errorsComeInTheFixedOrder : Obligations.ErrorsComeInTheFixedOrder := by
  unfold Obligations.ErrorsComeInTheFixedOrder
  intro w s t h badKey short tooLong envTooLong permute build openEnv
  cases hw : decode w with
  | error e =>
    rw [runWord, hw] at h
    cases h
    rfl
  | ok i =>
    rw [runWord_of_decode hw] at h
    cases i with
    | csum => exact (err_of_execCsum h).trans (getD_contentError ..)
    | shuf => exact (err_of_execPermute h).trans (getD_contentError ..)
    | unshuf => exact (err_of_execPermute h).trans (getD_contentError ..)
    | build => exact (err_of_execBuild h).trans (getD_buildError ..)
    | openEnv => exact (err_of_execOpen h).trans (getD_openError ..)
    | enc m => exact (err_of_execEnc h).trans (getD_buildError ..)
    | dec m => exact (err_of_execDec h).trans (getD_openError ..)
    | genkey => exact err_of_execGenkey h

/-! ### What an error writes (R112) -/

/-- Everything a command word that ends can leave: an error before any transaction, the failing `KS.init`, or no error. -/
theorem runWord_inv {w : BitVec 8} {s t : State} (h : runWord w s = .next t) :
    (∃ e, e ≠ .keystreamInitError ∧ t = raise e s) ∨ t = raise .keystreamInitError (note [.ksInitFailed] s) ∨
      t.err = .noError := by
  obtain ⟨i, _, hs⟩ | hs := runWord_cases w s <;> rw [hs] at h
  · obtain ⟨e, _, hks, rfl⟩ | ⟨_, rfl⟩ | hsucc := exec_inv h
    · exact .inl ⟨e, hks, rfl⟩
    · exact .inr (.inl rfl)
    · exact .inr (.inr (succeeds_noError hsucc))
  · exact .inl ⟨.illegalCommand, by decide, (next_inj h).symm⟩

/-- Settles O41: `raise` writes STATUS only, and the code tells whether a `KS.init` had failed before it. -/
theorem errorTouchesOnlyStatus : Obligations.ErrorTouchesOnlyStatus := by
  unfold Obligations.ErrorTouchesOnlyStatus
  intro w s t h he
  obtain ⟨e, hks, rfl⟩ | rfl | hok := runWord_inv h
  · exact ⟨fun _ => rfl, fun heq => absurd heq hks⟩
  · exact ⟨fun hne => absurd rfl hne, fun _ => rfl⟩
  · exact absurd hok he

end Sys2Proof.Machine
end

section
/-!
PROOFS. The encoder and the decoder are inverse to each other (30_encoding.md R50 to R53).
-/

namespace Sys2Proof

theorem decode_encode (i : Instr) : decode (encode i) = .ok i := by
  cases i with
  | enc m => cases m <;> rfl
  | dec m => cases m <;> rfl
  | csum | shuf | unshuf | build | openEnv | genkey => rfl

theorem decodeTableWord_encode (i : Instr) : decodeTableWord 8 (encode i).toNat = some i := by
  have hword := (encode i).isLt
  rw [decodeTableWord, if_pos ⟨le_rfl, hword⟩, BitVec.ofNat_toNat, BitVec.setWidth_eq, decode_encode]
  rfl

/-- Each of the ten legal words is the word of the command it decodes to. -/
theorem map_encode_decode_of_legal : ∀ w ∈ ([0x01, 0x02, 0x03, 0x04, 0x05, 0x06, 0x07, 0x08, 0x16, 0x17] : List (BitVec 8)),
    (decode w).map encode = .ok w := by decide

/-- A command has one word (R51). -/
theorem eq_encode_of_decode {w : BitVec 8} {i : Instr} (h : decode w = .ok i) : w = encode i := by
  have hlegal := (not_illegalWord_iff_mem w).1 ((exists_decode_ok_iff w).1 ⟨i, h⟩)
  have hmap := map_encode_decode_of_legal w hlegal
  rw [h] at hmap
  exact (Except.ok.inj hmap).symm

/-- Settles O2: a word that decodes is one of the ten legal words, and each of these is the word of its command. -/
theorem decodeInvertsEncode : Obligations.DecodeInvertsEncode := by
  unfold Obligations.DecodeInvertsEncode
  exact fun i => ⟨decode_encode i, decodeTableWord_encode i, fun _ => eq_encode_of_decode⟩

end Sys2Proof
end

section
/-!
PROOFS. What every step keeps: the canonical form of the memories (10_state.md R11, R13), the meaning of STATUS.OK (R16, R18) and the
parameters (R25); and the state after reset (R26).
-/

namespace Sys2Proof.Machine

open Sys2Proof

/-- A property that the host port does not touch is kept by every step if IllegalCommand, every command and every other event keep it. -/
theorem step_preserves {P : State → Prop} (hport : ∀ s host, P s → P { s with host := host })
    (hillegal : ∀ s, P s → P (raise .illegalCommand s)) (hexec : ∀ i s t, P s → exec i s = .next t → P t)
    (hserve : ∀ ev s, P s → P (serve ev s)) {s t : State} (hs : P s) (h : step s = .next t) : P t := by
  obtain ⟨_, hidle⟩ | ⟨w, hrun⟩ | ⟨ev, _, hev⟩ := step_cases s
  · rw [hidle] at h
    rwa [← next_inj h]
  · rw [hrun] at h
    have hready : P (respond .done (dequeue s)) := hport s _ hs
    obtain ⟨i, _, hi⟩ | hill := runWord_cases w (respond .done (dequeue s))
    · exact hexec i _ t hready (hi.symm.trans h)
    · rw [← next_inj (hill.symm.trans h)]
      exact hillegal _ hready
  · rw [hev] at h
    rw [← next_inj h]
    exact hserve ev _ (hport s _ hs)

/-! ### The memories -/

theorem memoriesWf_finish {s : State} (h : MemoriesWf s) (ok : Bool) : MemoriesWf (finish ok s) := h

theorem memoriesWf_writeKey {s : State} (h : MemoriesWf s) {base : Nat} {bytes : List Byte}
    (hfits : base + bytes.length ≤ keyMax) : MemoriesWf (writeKey base bytes s) :=
  ⟨memWf_memPutAll bytes s.key keyMax base hfits h.1, h.2⟩

theorem memoriesWf_writeBuf {s : State} (h : MemoriesWf s) {base : Nat} {bytes : List Byte}
    (hfits : base + bytes.length ≤ bufcap s) : MemoriesWf (writeBuf base bytes s) :=
  ⟨h.1, memWf_memPutAll bytes s.buf (bufcap s) base hfits h.2⟩

/-- A transform that writes at `BUF[0 ..]`, inside BUF, keeps the memories well formed. -/
theorem memoriesWf_of_buf_putAll {s t : State} (h : MemoriesWf s) {bytes : List Byte} (hkey : t.key = s.key)
    (hbuf : t.buf = memPutAll s.buf 0 bytes) (hparams : t.params = s.params) (hfits : bytes.length ≤ s.params.bufcap.size) :
    MemoriesWf t := by
  rw [MemoriesWf, bufcap, hkey, hbuf, hparams]
  exact memoriesWf_writeBuf h (by rwa [Nat.zero_add])

theorem memoriesWf_permuteContent {s : State} (h : MemoriesWf s) (d : Direction) (hfits : ContentFits s) :
    MemoriesWf (permuteContent d s) :=
  memoriesWf_of_buf_putAll h (permuteContent_key d s) (permuteContent_buf d s) (permuteContent_params d s) (by simpa using hfits)

theorem memoriesWf_buildContent {s : State} (h : MemoriesWf s) (hfits : EnvelopeFits s) : MemoriesWf (buildContent s) :=
  memoriesWf_of_buf_putAll h (buildContent_key s) (buildContent_buf s) (buildContent_params s)
    (by rwa [length_envelopeOf, Nat.add_comm])

theorem memoriesWf_openContent {s : State} (h : MemoriesWf s) (h24 : 24 ≤ s.len.toNat) (hfits : ContentFits s) :
    MemoriesWf (openContent s) :=
  memoriesWf_of_buf_putAll h (openContent_key s) (openContent_buf s) (openContent_params s) (by simpa [h24] using hfits)

theorem memoriesWf_generateKey {s : State} (h : MemoriesWf s) : MemoriesWf (generateKey s) := by
  rw [MemoriesWf, bufcap, generateKey_key, generateKey_params, generateKey_buf]
  exact ⟨memWf_memPutAll _ _ _ _ (by rw [Nat.zero_add, length_rngBytes]) h.1, h.2⟩

theorem memoriesWf_of_succeeds {i : Instr} {s t : State} (h : MemoriesWf s) (hs : Succeeds i s t) : MemoriesWf t := by
  cases i with
  | csum =>
    obtain ⟨_, rfl⟩ := hs
    exact h
  | shuf =>
    obtain ⟨hfits, _, rfl⟩ := hs
    exact memoriesWf_finish (memoriesWf_permuteContent h .shuffle hfits) false
  | unshuf =>
    obtain ⟨hfits, _, rfl⟩ := hs
    exact memoriesWf_finish (memoriesWf_permuteContent h .unshuffle hfits) false
  | build =>
    obtain ⟨hfits, _, rfl⟩ := hs
    exact memoriesWf_finish (memoriesWf_buildContent h hfits) false
  | openEnv =>
    obtain ⟨h24, hfits, _, rfl⟩ := hs
    exact memoriesWf_finish (memoriesWf_openContent h h24 hfits) _
  | enc m =>
    obtain ⟨hfits, _, rfl⟩ := hs
    refine memoriesWf_finish (memoriesWf_permuteContent (memoriesWf_buildContent h hfits) (encDirection m) ?_) false
    rwa [ContentFits, len_buildContent hfits, buildContent_params]
  | dec m =>
    obtain ⟨h24, hfits, _, rfl⟩ := hs
    refine memoriesWf_finish (memoriesWf_openContent (memoriesWf_permuteContent h (decDirection m) hfits) ?_ ?_) _
    · rwa [permuteContent_len]
    · rwa [ContentFits, permuteContent_len, permuteContent_params]
  | genkey =>
    obtain rfl : t = finish false (generateKey s) := hs
    exact memoriesWf_finish (memoriesWf_generateKey h) false

theorem memoriesWf_of_exec {i : Instr} {s t : State} (h : MemoriesWf s) (hexec : exec i s = .next t) : MemoriesWf t := by
  obtain ⟨_, _, _, rfl⟩ | ⟨_, rfl⟩ | hs := exec_inv hexec
  · exact h
  · exact h
  · exact memoriesWf_of_succeeds h hs

/-- A reset lists nothing, and a host write lists one byte inside its memory. -/
theorem memoriesWf_serve {s : State} (h : MemoriesWf s) (ev : HostEvent) : MemoriesWf (serve ev s) := by
  obtain ⟨_, hev⟩ | ⟨_, _, hev⟩ | ⟨_, _, hev⟩ | ⟨_, _, _, ha, hev⟩ | ⟨_, _, _, ha, hev⟩ | ⟨_, hev⟩ | ⟨_, hev⟩ := serve_cases ev s <;>
    rw [hev]
  · exact h
  · exact h
  · exact h
  · exact memoriesWf_writeKey h ha
  · exact memoriesWf_writeBuf h ha
  · exact ⟨rfl, rfl⟩
  · exact h

/-- Settles O53: what a command or the host writes lies inside its memory, by the checks passed before. -/
theorem everyStepKeepsTheMemoriesWellFormed : Obligations.EveryStepKeepsTheMemoriesWellFormed := by
  unfold Obligations.EveryStepKeepsTheMemoriesWellFormed
  exact fun _ _ => step_preserves (fun _ _ h => h) (fun _ h => h) (fun _ _ _ => memoriesWf_of_exec) fun ev _ h => memoriesWf_serve h ev

/-! ### STATUS -/

/-- Settles O28: every end of a command but that of OPEN and DEC writes OK = 0, and `open()` writes whether the checksums agree. -/
theorem integrityFlagMeansChecksumsAgree : Obligations.IntegrityFlagMeansChecksumsAgree := by
  unfold Obligations.IntegrityFlagMeansChecksumsAgree
  intro i s t h
  obtain ⟨e, hne, _, rfl⟩ | ⟨_, rfl⟩ | hs := exec_inv h
  · simp [hne]
  · simp
  · clear h
    cases i with
    | csum =>
      obtain ⟨_, rfl⟩ := hs
      simp
    | shuf | unshuf | build | enc =>
      obtain ⟨_, _, rfl⟩ := hs
      simp
    | openEnv | dec =>
      obtain ⟨_, _, _, rfl⟩ := hs
      simp
    | genkey =>
      obtain rfl : t = finish false (generateKey s) := hs
      simp

theorem statusTruthful_of_exec {i : Instr} {s t : State} (h : exec i s = .next t) : StatusTruthful t :=
  fun hok => ((integrityFlagMeansChecksumsAgree i s t h).1 hok).2

theorem statusTruthful_serve {s : State} (h : StatusTruthful s) (ev : HostEvent) : StatusTruthful (serve ev s) := by
  obtain ⟨_, hev⟩ | ⟨_, _, hev⟩ | ⟨_, _, hev⟩ | ⟨_, _, _, _, hev⟩ | ⟨_, _, _, _, hev⟩ | ⟨_, hev⟩ | ⟨_, hev⟩ := serve_cases ev s <;>
    rw [hev]
  · exact h
  · exact h
  · exact h
  · exact h
  · exact h
  · exact nofun
  · exact h

/-- Settles O55: a command leaves a truthful STATUS by O28, an illegal word and a reset leave OK = 0, and nothing else writes ERR, OK, ACC
or EMB. -/
theorem everyStepKeepsTheStatusTruthful : Obligations.EveryStepKeepsTheStatusTruthful := by
  unfold Obligations.EveryStepKeepsTheStatusTruthful
  exact fun _ _ => step_preserves (fun _ _ h => h) (fun _ _ => nofun) (fun _ _ _ _ => statusTruthful_of_exec) fun ev _ h =>
    statusTruthful_serve h ev

/-- Settles O42: each end of a command writes both fields of STATUS, and nothing before it reads them. -/
theorem statusIsNotSticky : Obligations.StatusIsNotSticky := by
  unfold Obligations.StatusIsNotSticky
  intro w s e b
  cases hw : decode w with
  | error => simp only [runWord, hw]; rfl
  | ok i =>
    rw [runWord_of_decode hw, runWord_of_decode hw]
    cases i <;> rfl

/-! ### The parameters -/

theorem params_of_exec {i : Instr} {s t : State} (h : exec i s = .next t) : t.params = s.params := by
  obtain ⟨_, _, _, rfl⟩ | ⟨_, rfl⟩ | hs := exec_inv h
  · rfl
  · rfl
  · clear h
    cases i with
    | csum =>
      obtain ⟨_, rfl⟩ := hs
      rfl
    | shuf | unshuf | build | enc =>
      obtain ⟨_, _, rfl⟩ := hs
      simp
    | openEnv | dec =>
      obtain ⟨_, _, _, rfl⟩ := hs
      simp
    | genkey =>
      obtain rfl : t = finish false (generateKey s) := hs
      simp

theorem params_serve (ev : HostEvent) (s : State) : (serve ev s).params = s.params := by
  obtain ⟨_, hev⟩ | ⟨_, _, hev⟩ | ⟨_, _, hev⟩ | ⟨_, _, _, _, hev⟩ | ⟨_, _, _, _, hev⟩ | ⟨_, hev⟩ | ⟨_, hev⟩ := serve_cases ev s <;>
    rw [hev] <;> rfl

/-- Settles O50: no command and no other event writes a parameter. -/
theorem parametersNeverChange : Obligations.ParametersNeverChange := by
  unfold Obligations.ParametersNeverChange
  intro s t
  exact step_preserves (P := fun u => u.params = s.params) (fun _ _ h => h) (fun _ h => h)
    (fun _ _ _ h hexec => (params_of_exec hexec).trans h) (fun ev u h => (params_serve ev u).trans h) rfl

/-! ### The state after reset -/

/-- Settles O43: the registers are read off `State.resetWith`, and no byte of a memory is listed. -/
theorem resetLeavesTheSpecifiedValues : Obligations.ResetLeavesTheSpecifiedValues := by
  unfold Obligations.ResetLeavesTheSpecifiedValues
  refine ⟨rfl, rfl, rfl, rfl, fun k hk => ?_, rfl, rfl, rfl, fun a => ⟨rfl, rfl⟩⟩
  simp [State.reset, State.resetWith]

/-- Settles O54: the memories list nothing. -/
theorem resetMemoriesAreWellFormed : Obligations.ResetMemoriesAreWellFormed := ⟨rfl, rfl⟩

/-- Settles O56: OK is 0. -/
theorem resetStatusIsTruthful : Obligations.ResetStatusIsTruthful := nofun

end Sys2Proof.Machine
end

section
/-!
PROOFS. One step on the host port (20_memory.md R32 to R35, R39, R40; 70_reset_and_hazards.md R122, R123): reads, writes, commands and the
reset events.
-/

namespace Sys2Proof.Machine

open Sys2Proof

/-! ### Idle, and a legal command word -/

/-- Settles O6: a step with nothing pending is the identity by definition. -/
theorem idleWithNoAccessPending : Obligations.IdleWithNoAccessPending := by
  unfold Obligations.IdleWithNoAccessPending
  intro s hidle
  rw [step, hidle]

/-- Settles O5: a pending write to CMD runs its word, and `withFetchWord` puts one in front. -/
theorem stepRunsTheDecodedCommand : Obligations.StepRunsTheDecodedCommand := by
  unfold Obligations.StepRunsTheDecodedCommand
  intro s w i rest hw
  have hfront : (s.withFetchWord 8 w.toNat).host.pending = commandWrite w.toNat :: s.host.pending := rfl
  refine ⟨fun hp => ?_, ?_⟩
  · rw [step_of_commandWrite hp, runWord_of_decode hw]
  · rw [step_of_commandWrite hfront, runWord_of_decode hw]
    rfl

/-! ### Host reads -/

/-- A read that returns a value only answers with it (R39). -/
theorem step_of_read {s : State} {sp : Space} {a v : Nat} {rest : List HostEvent} (hp : s.host.pending = .read sp a 1 :: rest)
    (hv : readValue sp a 1 s = some v) :
    step s = .next { s with host := { pending := rest, response := some (.value v) } } := by
  have hread : hostRead sp a 1 { s with host := { s.host with pending := rest } } =
      { s with host := { pending := rest, response := some (.value v) } } := by
    rw [hostRead, show readValue sp a 1 { s with host := { s.host with pending := rest } } = some v from hv]
    rfl
  rw [step_of_pending hp, ← hread]
  rfl

/-- STATUS in numbers: the code in bits 3:0, OK in bit 4 (10_state.md R18). -/
theorem statusWord_toNat (s : State) :
    (statusWord s).toNat = (errNumber s.err).toNat + 16 * if s.ok = true then 1 else 0 := by
  rw [statusWord, BitVec.toNat_append, ← Nat.shiftLeft_add_eq_or_of_lt (errNumber s.err).isLt, Nat.add_comm]
  cases s.ok <;> rfl

theorem readValue_ctrl_status (s : State) :
    readValue .ctrl 1 1 s = some ((errNumber s.err).toNat + 16 * if s.ok = true then 1 else 0) :=
  congrArg some (statusWord_toNat s)

theorem readValue_keymem {s : State} {a : Nat} (ha : a < 256) : readValue .keymem a 1 s = some (keyByte s a).toNat := by
  simp [readValue, keyMax, ha]

theorem readValue_bufmem {s : State} {a : Nat} (ha : a < s.params.bufcap.size) :
    readValue .bufmem a 1 s = some (bufByte s a).toNat := by
  simp [readValue, bufcap, ha]

theorem readValue_maskmem {s : State} {a : Nat} (ha : a < 16) : readValue .maskmem a 1 s = some s.mask[a].toNat := by
  simp [readValue, maskBytes, maskByte, ha]

/-- Settles O7: each read returns its value by the lemmas above, and `step_of_read` is the step around it. -/
theorem hostReadsReturnTheState : Obligations.HostReadsReturnTheState := by
  unfold Obligations.HostReadsReturnTheState
  intro s answers ok
  have hstatus {e : ErrCode} {n : Nat} (hn : (errNumber e).toNat = n) (he : s.err = e) : answers .ctrl 1 (n + 16 * ok) := by
    subst hn he
    exact fun rest hp => step_of_read hp (readValue_ctrl_status s)
  refine ⟨hstatus rfl, hstatus rfl, hstatus rfl, hstatus rfl, hstatus rfl, hstatus rfl, ?_, ?_, ?_, ?_, ?_, ?_, ?_⟩
  · exact fun rest hp => step_of_read hp rfl
  · exact fun rest hp => step_of_read hp rfl
  · exact fun rest hp => step_of_read hp rfl
  · exact fun rest hp => step_of_read hp rfl
  · exact fun a ha rest hp => step_of_read hp (readValue_keymem ha)
  · exact fun a ha rest hp => step_of_read hp (readValue_bufmem ha)
  · exact fun a ha rest hp => step_of_read hp (readValue_maskmem ha)

/-! ### Host writes -/

/-- A write that is no command and has an effect is that effect, with the write taken off the port and answered. -/
theorem step_of_write {s t : State} {sp : Space} {a v : Nat} {rest : List HostEvent} (hp : s.host.pending = .write sp a 1 v :: rest)
    (hc : commandWord (.write sp a 1 v) = none)
    (hw : writeEffect sp a 1 v { s with host := { s.host with pending := rest } } = some t) :
    step s = .next (respond .done t) := by
  rw [step_of_pending hp, serveEvent, hc]
  simp only [serve, hostWrite, hw]

theorem writeEffect_klen (s : State) {v : Nat} (hv : v < 2 ^ 9) :
    writeEffect .ctrl 2 1 v s = some { s with klen := BitVec.ofNat 9 v } := by
  simp [writeEffect, show v < 512 from hv]

theorem writeEffect_len (s : State) {v : Nat} (hv : v < 2 ^ 32) :
    writeEffect .ctrl 3 1 v s = some { s with len := BitVec.ofNat 32 v } := by
  simp [writeEffect, show v < 4294967296 from hv]

theorem writeEffect_keymem (s : State) {a v : Nat} (ha : a < 256) (hv : v < 2 ^ 8) :
    writeEffect .keymem a 1 v s = some (writeKey a [BitVec.ofNat 8 v] s) := by
  simp [writeEffect, keyMax, ha, show v < 256 from hv]

theorem writeEffect_bufmem {s : State} {a v : Nat} (ha : a < s.params.bufcap.size) (hv : v < 2 ^ 8) :
    writeEffect .bufmem a 1 v s = some (writeBuf a [BitVec.ofNat 8 v] s) := by
  simp [writeEffect, bufcap, ha, show v < 256 from hv]

theorem keyByte_writeKey_singleton (s : State) (a b : Nat) (v : Byte) :
    keyByte (writeKey a [v] s) b = if a = b then v else keyByte s b := by
  rw [keyByte, writeKey_key, writeKey_free, memPutAll, memPutAll, memFind_memPut]
  split_ifs <;> rfl

theorem bufByte_writeBuf_singleton (s : State) (a b : Nat) (v : Byte) :
    bufByte (writeBuf a [v] s) b = if a = b then v else bufByte s b := by
  rw [bufByte, writeBuf_buf, writeBuf_free, memPutAll, memPutAll, memFind_memPut]
  split_ifs <;> rfl

/-- Settles O8: the effect of each write is one field or one listed byte. -/
theorem hostWritesChangeOneItem : Obligations.HostWritesChangeOneItem := by
  unfold Obligations.HostWritesChangeOneItem
  intro s a v rest port
  refine ⟨fun hp hv => ?_, fun hp hv => ?_, fun hp ha hv => ?_, fun hp ha hv => ?_⟩
  · exact step_of_write hp rfl (writeEffect_klen _ hv)
  · exact step_of_write hp rfl (writeEffect_len _ hv)
  · refine ⟨_, step_of_write hp rfl (writeEffect_keymem _ ha hv), rfl, ?_, fun b hb => ?_⟩
    · exact (keyByte_writeKey_singleton ..).trans (if_pos rfl)
    · exact (keyByte_writeKey_singleton ..).trans (if_neg hb.symm)
  · refine ⟨_, step_of_write hp rfl (writeEffect_bufmem ha hv), rfl, ?_, fun b hb => ?_⟩
    · exact (bufByte_writeBuf_singleton ..).trans (if_pos rfl)
    · exact (bufByte_writeBuf_singleton ..).trans (if_neg hb.symm)

/-! ### Reset events -/

/-- How many drawn bytes are lost by abandoning the command of a word (70_reset_and_hazards.md R123). -/
def wordDemand (w : BitVec 8) (s : State) : Nat :=
  match decode w with
  | .ok i => rngDemand i s
  | .error _ => 0

/-- The demand does not depend on the host port. -/
theorem wordDemand_host (w : BitVec 8) (s : State) (host : HostPort) : wordDemand w { s with host := host } = wordDemand w s := by
  rw [wordDemand, wordDemand]
  split
  · next i _ => cases i <;> rfl
  · rfl

/-- What a reset leaves of a block whose random source has lost `k` bytes. -/
def resetAfterLosing (k : Nat) (s : State) : State := resetBlock { s with dev := rngAdvance k s.dev }

theorem serveEvent_reset (s : State) : serveEvent .reset s = .next (resetAfterLosing 0 s) := rfl

theorem serveEvent_abandoned (w : BitVec 8) (lost : Nat) (s : State) :
    serveEvent (.abandoned w lost) s = .next (resetAfterLosing (min lost (wordDemand w s)) s) := rfl

theorem buildError_isSome_iff (s : State) : (buildError s).isSome = true ↔ ¬ (KeyOk s ∧ EnvelopeFits s) := by
  by_cases hkey : KeyOk s
  · by_cases hfits : EnvelopeFits s
    · simp [buildError_of_ok hkey hfits, hkey, hfits]
    · simp [buildError_of_overflow hkey hfits, hfits]
  · simp [buildError_of_badKey hkey, hkey]

/-- BUILD and ENC draw the mask if their checks are passed. -/
theorem rngDemand_build (s : State) :
    rngDemand .build s =
      if 1 ≤ s.klen.toNat ∧ s.klen.toNat ≤ 256 ∧ s.len.toNat + 24 ≤ s.params.bufcap.size then 16 else 0 := by
  rw [rngDemand, if_congr (buildError_isSome_iff s) rfl rfl, ite_not]
  exact if_congr and_assoc rfl rfl

/-- Settles O44: both events are one reset, after 0 lost bytes or after those of the abandoned command. -/
theorem resetEventsLeaveTheResetState : Obligations.ResetEventsLeaveTheResetState := by
  unfold Obligations.ResetEventsLeaveTheResetState
  constructor
  · intro s ev w lost rest hev hp demand k
    have hstep : step s = .next (resetAfterLosing k { s with host := { s.host with pending := rest } }) := by
      rw [step_of_pending hp]
      obtain rfl | rfl := hev
      · exact serveEvent_reset _
      · rw [serveEvent_abandoned, wordDemand_host]
        rfl
    exact ⟨_, hstep, rfl, rfl, rfl, rfl, rfl, rfl, rfl, rfl, fun a => ⟨rfl, rfl⟩, rfl, rfl, rfl⟩
  · intro i s builds
    cases i with
    | build => exact rngDemand_build s
    | enc => exact rngDemand_build s
    | csum | shuf | unshuf | openEnv | dec | genkey => rfl

end Sys2Proof.Machine
end

section
/-!
PROOFS. An odd prime separates last bytes (40_checksum.md R65), the keystream blocks in numbers and the steps of the permutation engine
(41_permutation.md R68, R71, R72), and the commands SHUF and UNSHUF (R76 to R78).
-/

namespace Sys2Proof.Machine

open Sys2Proof

/-! ### The checksum -/

/-- An odd number is a unit modulo `2^w`, so multiplying by it loses nothing. -/
theorem eq_of_mul_odd_eq {w : Nat} {p : BitVec w} (hodd : p.toNat % 2 = 1) {x y : BitVec w} (h : x * p = y * p) : x = y := by
  have hcoprime : Nat.Coprime (2 ^ w) p.toNat := Nat.Coprime.pow_left w ((Nat.coprime_two_left).2 (Nat.odd_iff.2 hodd))
  have hmod : x.toNat * p.toNat ≡ y.toNat * p.toNat [MOD 2 ^ w] := by
    rw [Nat.ModEq, ← BitVec.toNat_mul, ← BitVec.toNat_mul, h]
  apply BitVec.eq_of_toNat_eq
  exact (Nat.ModEq.cancel_right_of_coprime hcoprime hmod).eq_of_lt_of_lt x.isLt y.isLt

theorem accAbsorb_injective {p : Params} (hodd : p.fnvPrime.toNat % 2 = 1) (a : Word64) :
    Function.Injective (accAbsorb p a) := by
  intro b c h
  have hxor := eq_of_mul_odd_eq hodd h
  have hbytes : (b.zeroExtend 64).toNat = (c.zeroExtend 64).toNat := congrArg BitVec.toNat ((BitVec.xor_right_inj a).1 hxor)
  rw [BitVec.toNat_setWidth_of_le (by decide), BitVec.toNat_setWidth_of_le (by decide)] at hbytes
  exact BitVec.eq_of_toNat_eq hbytes

/-- Settles O12: the last byte is absorbed last, by an injective function of it. -/
theorem oddPrimeSeparatesLastBytes : Obligations.OddPrimeSeparatesLastBytes := by
  unfold Obligations.OddPrimeSeparatesLastBytes
  intro p xs b c hodd h
  rw [checksum_append_singleton, checksum_append_singleton] at h
  exact accAbsorb_injective hodd _ h

/-! ### The keystream blocks -/

/-- Settles O14: the sum of `leNat_eq_sum` over the eight bytes of a block. -/
theorem blockIsLittleEndian : Obligations.BlockIsLittleEndian := by
  unfold Obligations.BlockIsLittleEndian
  intro p key i
  refine ⟨?_, block_lt p key i⟩
  rw [block, leNat_eq_sum, List.length_map, List.length_range]
  refine Finset.sum_congr rfl fun k hk => ?_
  rw [List.getD_eq_getElem?_getD, List.getElem?_map, List.getElem?_range (Finset.mem_range.1 hk)]
  rfl

/-! ### The buffers between the steps -/

/-- The buffer after the first `i` steps of shuffle. -/
def shuffleStage (J : List Nat) (b : List Byte) (i : Nat) : List Byte := (List.range i).foldl (swapStep J) b

theorem shuffleStage_succ (J : List Nat) (b : List Byte) (i : Nat) :
    shuffleStage J b (i + 1) = swapStep J (shuffleStage J b i) i := by
  rw [shuffleStage, List.range_succ, List.foldl_concat, shuffleStage]

/-- The buffer of unshuffle before step `i - 1`: the steps from the last down to `i` are done. -/
def unshuffleStage (J : List Nat) (b : List Byte) (i : Nat) : List Byte :=
  (List.range' i (b.length - i)).reverse.foldl (swapStep J) b

theorem unshuffleStage_length (J : List Nat) (b : List Byte) : unshuffleStage J b b.length = b := by
  rw [unshuffleStage, Nat.sub_self]
  rfl

theorem unshuffleStage_of_lt (J : List Nat) {b : List Byte} {i : Nat} (hi : i < b.length) :
    unshuffleStage J b i = swapStep J (unshuffleStage J b (i + 1)) i := by
  have hsteps : b.length - i = b.length - (i + 1) + 1 := by omega
  rw [unshuffleStage, hsteps, List.range'_succ, List.reverse_cons, List.foldl_concat, unshuffleStage]

theorem unshuffleStage_zero (J : List Nat) (b : List Byte) : unshuffleStage J b 0 = unshuffleBytes J b := by
  rw [unshuffleStage, Nat.sub_zero, ← List.range_eq_range', unshuffleBytes]

/-- Settles O17: the buffers are those after the steps of each direction done so far. -/
theorem stepsAscendForShuffleAndDescendForUnshuffle : Obligations.StepsAscendForShuffleAndDescendForUnshuffle := by
  unfold Obligations.StepsAscendForShuffleAndDescendForUnshuffle
  intro J b
  exact ⟨⟨shuffleStage J b, rfl, fun i _ => shuffleStage_succ J b i, rfl⟩,
    ⟨unshuffleStage J b, unshuffleStage_length J b, fun _ => unshuffleStage_of_lt J, unshuffleStage_zero J b⟩⟩

/-! ### SHUF and UNSHUF -/

/-- What a permutation command without error leaves (R76, R77). -/
theorem execPermute_permutes (d : Direction) {s : State} (hkey : KeyOk s) (hfits : ContentFits s) (hks : s.dev.ksAnswers = true) :
    ∃ t, execPermute d s = .next t ∧ content t = permuteBytes d (indexSeq s.params (keyOf s) s.len.toNat) (content s) ∧
      t = { s with buf := t.buf, err := .noError, ok := false, dev := t.dev } ∧
      ∀ a, s.len.toNat ≤ a → bufByte t a = bufByte s a :=
  ⟨_, execPermute_next hkey.1 hkey.2 hfits hks, content_permuteContent d s, finish_permuteContent_frame d s _ rfl⟩

/-- Settles O19: `execPermute_permutes` in each direction. -/
theorem shufAndUnshufPermuteTheContent : Obligations.ShufAndUnshufPermuteTheContent := by
  unfold Obligations.ShufAndUnshufPermuteTheContent
  intro s hpos hmax hfits hks n key J frame
  exact ⟨execPermute_permutes .shuffle ⟨hpos, hmax⟩ hfits hks, execPermute_permutes .unshuffle ⟨hpos, hmax⟩ hfits hks⟩

theorem permuteBytes_perm (d : Direction) {p : Params} {key b : List Byte} {n : Nat} (hb : b.length = n) :
    (permuteBytes d (indexSeq p key n) b).Perm b := by
  cases d with
  | shuffle => exact shuffleBytes_perm hb
  | unshuffle => exact unshuffleBytes_perm hb

/-- There is one order of at most one byte. -/
theorem eq_of_perm_of_length_le_one {b c : List Byte} (h : c.Perm b) (hb : b.length ≤ 1) : c = b := by
  match b, hb with
  | [], _ => exact h.eq_nil
  | [x], _ => exact List.perm_singleton.1 h

theorem bufByte_permuteContent_short (d : Direction) {s : State} (hshort : s.len.toNat ≤ 1) (a : Nat) :
    bufByte (permuteContent d s) a = bufByte s a := by
  have hcontent : content (permuteContent d s) = content s := by
    rw [content_permuteContent]
    exact eq_of_perm_of_length_le_one (permuteBytes_perm d (length_content s)) (by rwa [length_content])
  rcases Nat.lt_or_ge a s.len.toNat with ha | ha
  · exact bufByte_of_content_eq hcontent ha
  · exact bufByte_permuteContent_above d s a ha

/-- One `init` and one `next8` for each byte (20_memory.md R45). -/
theorem length_ksTraffic (p : Params) (key : List Byte) (n : Nat) : (ksTraffic p key n).length = 1 + n := by
  rw [ksTraffic, List.length_cons, List.length_map, List.length_range, Nat.add_comm]

theorem execPermute_short (d : Direction) {s : State} (hkey : KeyOk s) (hshort : s.len.toNat ≤ 1) (hks : s.dev.ksAnswers = true) :
    ∃ t, execPermute d s = .next t ∧ (∀ a, bufByte t a = bufByte s a) ∧ t.err = .noError ∧
      t.dev.traffic.length = s.dev.traffic.length + 1 + s.len.toNat := by
  have hfits : ContentFits s := by
    have hcap := s.params.bufcap.atLeast
    rw [ContentFits]
    omega
  refine ⟨_, execPermute_next hkey.1 hkey.2 hfits hks, fun a => bufByte_permuteContent_short d hshort a, rfl, ?_⟩
  rw [finish_dev, traffic_permuteContent, List.length_append, length_ksTraffic, Nat.add_assoc]

/-- Settles O21: a LEN of 0 or 1 fits every capacity, and the permuted content is a reordering of at most one byte. -/
theorem shortPermutationsChangeNoByte : Obligations.ShortPermutationsChangeNoByte := by
  unfold Obligations.ShortPermutationsChangeNoByte
  intro s i hi hpos hmax hshort hks
  obtain rfl | rfl := hi
  · exact execPermute_short .shuffle ⟨hpos, hmax⟩ hshort hks
  · exact execPermute_short .unshuffle ⟨hpos, hmax⟩ hshort hks

end Sys2Proof.Machine
end

section
/-!
PROOFS. ENC and DEC (44_sequencer.md R97, R98): their checks, their final states, and each as its two commands in a row (R101).
-/

namespace Sys2Proof.Machine

open Sys2Proof

/-- The command that permutes in a direction. -/
def Direction.command : Direction → Instr
  | .shuffle => .shuf
  | .unshuffle => .unshuf

theorem exec_command (d : Direction) (s : State) : exec d.command s = execPermute d s := by
  cases d with
  | shuffle => rfl
  | unshuffle => rfl

/-! ### ENC -/

/-- Settles O30: ENC's checks pass, and the envelope that BUILD leaves is permuted in its place. -/
theorem encPermutesTheEnvelope : Obligations.EncPermutesTheEnvelope := by
  unfold Obligations.EncPermutesTheEnvelope
  intro s m hpos hmax hfits hrng hks n key msg mask env J
  have hmsg : content s = msg := content_eq_map s
  have henv : envelopeOf s = env := by rw [envelopeOf, hmsg]; rfl
  refine ⟨_, execEnc_next hpos hmax hfits hrng hks, ?_, ?_, ?_, ?_, fun a ha => ?_, ?_⟩
  · rw [content_finish, content_permuteContent, content_buildContent hfits, henv, keyOf_buildContent, buildContent_params, lenNat,
      len_buildContent hfits]
    cases m <;> rfl
  · rw [finish_len, permuteContent_len, len_buildContent hfits]
  · rw [finish_acc, permuteContent_acc, buildContent_acc, hmsg]
  · rw [finish_mask, permuteContent_mask, buildContent_mask, toList_maskOf _ (length_rngBytes ..)]
    rfl
  · rw [bufByte_finish, bufByte_permuteContent_buildContent_above _ hfits a ha]
  · apply State.ext <;> simp

/-- Settles O32: the state that BUILD leaves passes the checks of the permutation, which does not read STATUS. -/
theorem encIsBuildThenPermute : Obligations.EncIsBuildThenPermute := by
  unfold Obligations.EncIsBuildThenPermute
  intro s m hpos hmax hfits hrng hks
  have hpermute : execPermute (encDirection m) (finish false (buildContent s)) =
      .next (finish false (permuteContent (encDirection m) (buildContent s))) := by
    rw [execPermute_next, finish_permute]
    · simpa using hpos
    · simpa using hmax
    · rw [ContentFits, finish_len, len_buildContent hfits, finish_params, buildContent_params]
      exact hfits
    · simpa [rngAdvance] using hks
  refine ⟨_, _, execBuild_next hpos hmax hfits hrng, ?_, execEnc_next hpos hmax hfits hrng hks⟩
  rw [← hpermute, ← exec_command]
  cases m <;> rfl

/-! ### DEC -/

/-- Settles O31: DEC's checks pass, and the permuted content is opened as an envelope. -/
theorem decOpensTheUnpermutedEnvelope : Obligations.DecOpensTheUnpermutedEnvelope := by
  unfold Obligations.DecOpensTheUnpermutedEnvelope
  intro s m hpos hmax h24 hfits hks n key J bytes env mask msg
  have henv : content (permuteContent (decDirection m) s) = env := by
    rw [content_permuteContent, content_eq_map]
    cases m <;> rfl
  have hmask : parseMask env = mask := rfl
  have hmsg : recoveredMessage (keyOf (permuteContent (decDirection m) s)) (content (permuteContent (decDirection m) s)) = msg := by
    rw [keyOf_permuteContent, henv]
    rfl
  have hmask16 : mask.length = 16 := by
    rw [← hmask, ← henv]
    exact length_parseMask (by simpa using h24)
  refine ⟨_, execDec_next hpos hmax h24 hfits hks, ?_, ?_, ?_, ?_, ?_, ?_, fun a ha => ?_, ?_⟩
  · rw [content_finishOpen, content_openContent, hmsg]
  · rw [finishOpen_len, len_openContent, permuteContent_len]
  · rw [finishOpen_acc, openContent_acc, hmsg, permuteContent_params]
  · rw [finishOpen_emb, openContent_emb, henv]
    rfl
  · rw [finishOpen_mask, openContent_mask, henv, hmask, toList_maskOf _ hmask16]
  · simp
  · rw [bufByte_finishOpen, bufByte_openContent_permuteContent_above _ s h24 a ha]
  · apply State.ext <;> simp

/-- STATUS has no influence on OPEN. -/
theorem finishOpen_openContent_finish (b : Bool) (s : State) :
    finishOpen (openContent (finish b s)) = finishOpen (openContent s) := rfl

/-- Settles O33: the state that the permutation leaves passes the checks of OPEN, which does not read STATUS. -/
theorem decIsPermuteThenOpen : Obligations.DecIsPermuteThenOpen := by
  unfold Obligations.DecIsPermuteThenOpen
  intro s m hpos hmax h24 hfits hks
  have hopen : execOpen (finish false (permuteContent (decDirection m) s)) =
      .next (finishOpen (openContent (permuteContent (decDirection m) s))) := by
    rw [execOpen_next, finishOpen_openContent_finish]
    · simpa using hpos
    · simpa using hmax
    · simpa using h24
    · simpa [ContentFits] using hfits
  refine ⟨_, _, ?_, hopen, execDec_next hpos hmax h24 hfits hks⟩
  rw [← execPermute_next hpos hmax hfits hks, ← exec_command]
  cases m <;> rfl

end Sys2Proof.Machine
end

section
/-!
PROOFS. The errors of 60_exceptions.md R106 to R109, one command after another: a command whose checks find an error only raises it.
-/

namespace Sys2Proof.Machine

open Sys2Proof

/-! ### A failed check -/

theorem exec_of_contentError {i : Instr} {s : State} {e : ErrCode} (hi : i = .csum ∨ i = .shuf ∨ i = .unshuf)
    (he : contentError s = some e) : exec i s = .next (raise e s) := by
  obtain rfl | rfl | rfl := hi
  · simp only [exec, execCsum, he]
  · simp only [exec, execShuf, execPermute, he]
  · simp only [exec, execUnshuf, execPermute, he]

theorem exec_of_buildError {i : Instr} {m : Mode} {s : State} {e : ErrCode} (hi : i = .build ∨ i = .enc m)
    (he : buildError s = some e) : exec i s = .next (raise e s) := by
  obtain rfl | rfl := hi
  · simp only [exec, execBuild, he]
  · simp only [exec, execEnc, he]

theorem exec_of_openError {i : Instr} {m : Mode} {s : State} {e : ErrCode} (hi : i = .openEnv ∨ i = .dec m)
    (he : openError s = some e) : exec i s = .next (raise e s) := by
  obtain rfl | rfl := hi
  · simp only [exec, execOpen, he]
  · simp only [exec, execDec, he]

/-- With content that fits, a bad key length is found by `KS.init` (R67). -/
theorem execPermute_of_badKey (d : Direction) {s : State} (hfits : ContentFits s) (hkey : ¬ KeyOk s) (hks : s.dev.ksAnswers = true) :
    execPermute d s = .next (raise .keystreamInitError (note [.ksInitFailed] s)) := by
  obtain ⟨hover, _⟩ | ⟨_, hsilent, _⟩ | ⟨_, _, _, hs⟩ | ⟨_, _, hok, _⟩ := execPermute_cases d s
  · exact absurd hfits hover
  · rw [hks] at hsilent
    cases hsilent
  · exact hs
  · exact absurd hok hkey

/-! ### The statements -/

/-- Settles O36: the key length is the first check of the four commands. -/
theorem badKeyLengthEndsWithInvalidKeySize : Obligations.BadKeyLengthEndsWithInvalidKeySize := by
  unfold Obligations.BadKeyLengthEndsWithInvalidKeySize
  intro s m i hi hbad
  have hkey := (not_keyOk_iff s).2 hbad
  obtain hi | hi | hi | hi := hi
  · exact exec_of_buildError (m := m) (.inl hi) (buildError_of_badKey hkey)
  · exact exec_of_openError (m := m) (.inl hi) (openError_of_badKey hkey)
  · exact exec_of_buildError (.inr hi) (buildError_of_badKey hkey)
  · exact exec_of_openError (.inr hi) (openError_of_badKey hkey)

/-- Settles O37: the length of the envelope is the second check of OPEN and DEC. -/
theorem shortEnvelopeEndsWithInvalidDataSize : Obligations.ShortEnvelopeEndsWithInvalidDataSize := by
  unfold Obligations.ShortEnvelopeEndsWithInvalidDataSize
  intro s m i hi hpos hmax hshort
  exact exec_of_openError hi (openError_of_short ⟨hpos, hmax⟩ hshort)

/-- Content above the capacity is no short envelope: every capacity is at least 24 (00_scope.md R2). -/
theorem le_len_of_not_contentFits {s : State} (hover : ¬ ContentFits s) : 24 ≤ s.len.toNat := by
  have hcap := s.params.bufcap.atLeast
  rw [ContentFits] at hover
  omega

/-- Settles O38: the capacity is the last check of each group of commands. -/
theorem oversizeEndsWithBufferOverflow : Obligations.OversizeEndsWithBufferOverflow := by
  unfold Obligations.OversizeEndsWithBufferOverflow
  intro s m i error
  refine ⟨fun hi hover => ?_, fun hi hpos hmax hover => ?_, fun hi hpos hmax hover => ?_⟩
  · exact exec_of_contentError hi (contentError_of_overflow (Nat.not_le.2 hover))
  · have hfits : ¬ ContentFits s := Nat.not_le.2 hover
    exact exec_of_openError hi (openError_of_overflow ⟨hpos, hmax⟩ (le_len_of_not_contentFits hfits) hfits)
  · exact exec_of_buildError hi (buildError_of_overflow ⟨hpos, hmax⟩ (Nat.not_le.2 hover))

/-- Settles O39: SHUF and UNSHUF are `execPermute` in their directions. -/
theorem badKeyLengthFailsTheKeystream : Obligations.BadKeyLengthFailsTheKeystream := by
  unfold Obligations.BadKeyLengthFailsTheKeystream
  intro s i hi hfits hbad hks
  have hkey := (not_keyOk_iff s).2 hbad
  obtain rfl | rfl := hi
  · exact execPermute_of_badKey .shuffle hfits hkey hks
  · exact execPermute_of_badKey .unshuffle hfits hkey hks

end Sys2Proof.Machine
end

section
/-!
PROOFS. When a command hangs, and that it ends otherwise (70_reset_and_hazards.md R131).
-/

namespace Sys2Proof.Machine

open Sys2Proof

/-- An outcome is a hang on the random source exactly if `rng`, one on the keystream generator exactly if `ks`, and no refusal. -/
def HangsExactly (o : Host.Outcome State Fault Refusal) (rng ks : Prop) : Prop :=
  (o = .fault .rngNeverAnswers ↔ rng) ∧ (o = .fault .ksNeverAnswers ↔ ks) ∧ ∀ r, o ≠ .refused r

theorem hangsExactly_next {o : Host.Outcome State Fault Refusal} {t : State} {rng ks : Prop} (ho : o = .next t) (hrng : ¬ rng)
    (hks : ¬ ks) : HangsExactly o rng ks := by
  subst ho
  exact ⟨⟨nofun, fun h => absurd h hrng⟩, ⟨nofun, fun h => absurd h hks⟩, nofun⟩

theorem hangsExactly_rng {o : Host.Outcome State Fault Refusal} {rng ks : Prop} (ho : o = .fault .rngNeverAnswers) (hrng : rng)
    (hks : ¬ ks) : HangsExactly o rng ks := by
  subst ho
  exact ⟨⟨fun _ => hrng, fun _ => rfl⟩, ⟨nofun, fun h => absurd h hks⟩, nofun⟩

theorem hangsExactly_ks {o : Host.Outcome State Fault Refusal} {rng ks : Prop} (ho : o = .fault .ksNeverAnswers) (hrng : ¬ rng)
    (hks : ks) : HangsExactly o rng ks := by
  subst ho
  exact ⟨⟨nofun, fun h => absurd h hrng⟩, ⟨fun _ => hks, fun _ => rfl⟩, nofun⟩

/-! ### Each meaning -/

theorem execCsum_hangsExactly (s : State) : HangsExactly (execCsum s) False False := by
  obtain ⟨_, hs⟩ | ⟨_, hs⟩ := execCsum_cases s
  · exact hangsExactly_next hs id id
  · exact hangsExactly_next hs id id

theorem execPermute_hangsExactly (d : Direction) (s : State) :
    HangsExactly (execPermute d s) False (s.dev.ksAnswers = false ∧ ContentFits s) := by
  obtain ⟨hover, hs⟩ | ⟨hfits, hks, hs⟩ | ⟨_, hks, _, hs⟩ | ⟨_, hks, _, hs⟩ := execPermute_cases d s
  · exact hangsExactly_next hs id fun ⟨_, hfits⟩ => hover hfits
  · exact hangsExactly_ks hs id ⟨hks, hfits⟩
  · exact hangsExactly_next hs id (by simp [hks])
  · exact hangsExactly_next hs id (by simp [hks])

theorem execBuild_hangsExactly (s : State) :
    HangsExactly (execBuild s) (s.dev.rngAnswers = false ∧ KeyOk s ∧ EnvelopeFits s) False := by
  obtain ⟨hkey, hs⟩ | ⟨_, hover, hs⟩ | ⟨hkey, hfits, hrng, hs⟩ | ⟨_, _, hrng, hs⟩ := execBuild_cases s
  · exact hangsExactly_next hs (fun ⟨_, hok, _⟩ => hkey hok) id
  · exact hangsExactly_next hs (fun ⟨_, _, hfits⟩ => hover hfits) id
  · exact hangsExactly_rng hs ⟨hrng, hkey, hfits⟩ id
  · exact hangsExactly_next hs (by simp [hrng]) id

theorem execEnc_hangsExactly (m : Mode) (s : State) :
    HangsExactly (execEnc m s) (s.dev.rngAnswers = false ∧ KeyOk s ∧ EnvelopeFits s)
      (s.dev.ksAnswers = false ∧ KeyOk s ∧ EnvelopeFits s ∧ s.dev.rngAnswers = true) := by
  obtain ⟨hkey, hs⟩ | ⟨_, hover, hs⟩ | ⟨hkey, hfits, hrng, hs⟩ | ⟨hkey, hfits, hrng, hks, hs⟩ | ⟨_, _, hrng, hks, hs⟩ :=
    execEnc_cases m s
  · exact hangsExactly_next hs (fun ⟨_, hok, _⟩ => hkey hok) fun ⟨_, hok, _⟩ => hkey hok
  · exact hangsExactly_next hs (fun ⟨_, _, hfits⟩ => hover hfits) fun ⟨_, _, hfits, _⟩ => hover hfits
  · exact hangsExactly_rng hs ⟨hrng, hkey, hfits⟩ (by simp [hrng])
  · exact hangsExactly_ks hs (by simp [hrng]) ⟨hks, hkey, hfits, hrng⟩
  · exact hangsExactly_next hs (by simp [hrng]) (by simp [hks])

theorem execOpen_hangsExactly (s : State) : HangsExactly (execOpen s) False False := by
  obtain ⟨_, hs⟩ | ⟨_, _, hs⟩ | ⟨_, _, _, hs⟩ | ⟨_, _, _, hs⟩ := execOpen_cases s
  · exact hangsExactly_next hs id id
  · exact hangsExactly_next hs id id
  · exact hangsExactly_next hs id id
  · exact hangsExactly_next hs id id

theorem execDec_hangsExactly (m : Mode) (s : State) :
    HangsExactly (execDec m s) False (s.dev.ksAnswers = false ∧ KeyOk s ∧ 24 ≤ s.len.toNat ∧ ContentFits s) := by
  obtain ⟨hkey, hs⟩ | ⟨_, hshort, hs⟩ | ⟨_, _, hover, hs⟩ | ⟨hkey, h24, hfits, hks, hs⟩ | ⟨_, _, _, hks, hs⟩ := execDec_cases m s
  · exact hangsExactly_next hs id fun ⟨_, hok, _⟩ => hkey hok
  · exact hangsExactly_next hs id fun ⟨_, _, h24, _⟩ => Nat.not_le.2 hshort h24
  · exact hangsExactly_next hs id fun ⟨_, _, _, hfits⟩ => hover hfits
  · exact hangsExactly_ks hs id ⟨hks, hkey, h24, hfits⟩
  · exact hangsExactly_next hs id (by simp [hks])

theorem execGenkey_hangsExactly (s : State) : HangsExactly (execGenkey s) (s.dev.rngAnswers = false) False := by
  obtain ⟨hrng, hs⟩ | ⟨hrng, hs⟩ := execGenkey_cases s
  · exact hangsExactly_rng hs hrng id
  · exact hangsExactly_next hs (by simp [hrng]) id

/-! ### The statements -/

/-- Settles O46: the outcomes of each meaning, by its cases; a command that uses no device hangs under no condition. -/
theorem onlyASilentDeviceHangsACommand : Obligations.OnlyASilentDeviceHangsACommand := by
  unfold Obligations.OnlyASilentDeviceHangsACommand
  intro i s keyOk fits envFits draws inits
  change HangsExactly (exec i s) (s.dev.rngAnswers = false ∧ draws) (s.dev.ksAnswers = false ∧ inits)
  cases i <;> simp only [draws, inits, and_false, and_true]
  case csum => exact execCsum_hangsExactly s
  case shuf => exact execPermute_hangsExactly .shuffle s
  case unshuf => exact execPermute_hangsExactly .unshuffle s
  case build => exact execBuild_hangsExactly s
  case openEnv => exact execOpen_hangsExactly s
  case enc m => exact execEnc_hangsExactly m s
  case dec m => exact execDec_hangsExactly m s
  case genkey => exact execGenkey_hangsExactly s

/-- No command hangs while both devices answer (R131). -/
theorem exec_ends {s : State} (hrng : s.dev.rngAnswers = true) (hks : s.dev.ksAnswers = true) (i : Instr) :
    ∃ t, exec i s = .next t := by
  obtain ⟨hrngHang, hksHang, hrefused⟩ := onlyASilentDeviceHangsACommand i s
  rw [hrng] at hrngHang
  rw [hks] at hksHang
  match h : exec i s with
  | .next t => exact ⟨t, rfl⟩
  | .fault .rngNeverAnswers => exact absurd (hrngHang.1 h).1 nofun
  | .fault .ksNeverAnswers => exact absurd (hksHang.1 h).1 nofun
  | .refused r => exact absurd h (hrefused r)

/-- Settles O45: a command with both devices answering has no hang by O46; every other step is a next state. -/
theorem everyCommandEndsIfTheDevicesAnswer : Obligations.EveryCommandEndsIfTheDevicesAnswer := by
  unfold Obligations.EveryCommandEndsIfTheDevicesAnswer
  intro s hrng hks
  refine ⟨exec_ends hrng hks, ?_⟩
  obtain ⟨_, hidle⟩ | ⟨w, hrun⟩ | ⟨ev, _, hev⟩ := step_cases s
  · exact ⟨_, hidle⟩
  · rw [hrun]
    obtain ⟨i, _, hi⟩ | hill := runWord_cases w (respond .done (dequeue s))
    · rw [hi]
      exact exec_ends (s := respond .done (dequeue s)) hrng hks i
    · exact ⟨_, hill⟩
  · exact ⟨_, hev⟩

end Sys2Proof.Machine
end

section
/-!
PROOFS. The draws and the free values that a command uses up (20_memory.md R44, 43_envelope.md R89; log 6, 8, 11).
-/

namespace Sys2Proof.Machine

open Sys2Proof

/-- The state `t` has used up `draws` drawn bytes and `tails` tails of `s`, and left the two devices' flags alone. -/
def UsesUp (draws tails : Nat) (s t : State) : Prop :=
  t.dev = { s.dev with rngFeed := s.dev.rngFeed.drop draws, rngDrawn := s.dev.rngDrawn + draws, traffic := t.dev.traffic } ∧
  t.free = { s.free with tails := s.free.tails + tails }

theorem usesUp_permuteContent (d : Direction) (s : State) : UsesUp 0 0 s (permuteContent d s) := ⟨by simp, by simp⟩

theorem usesUp_buildContent (s : State) : UsesUp 16 0 s (buildContent s) := ⟨by simp [rngAdvance], by simp⟩

theorem usesUp_openContent (s : State) : UsesUp 0 1 s (openContent s) := ⟨by simp, by simp⟩

theorem usesUp_generateKey (s : State) : UsesUp 256 0 s (generateKey s) := ⟨by simp [rngAdvance], by simp⟩

theorem usesUp_finish {draws tails : Nat} {s t : State} (h : UsesUp draws tails s t) (b : Bool) :
    UsesUp draws tails s (finish b t) := h

theorem usesUp_finishOpen {draws tails : Nat} {s t : State} (h : UsesUp draws tails s t) :
    UsesUp draws tails s (finishOpen t) := h

theorem UsesUp.trans {d₁ d₂ t₁ t₂ : Nat} {s t u : State} (h₁ : UsesUp d₁ t₁ s t) (h₂ : UsesUp d₂ t₂ t u) :
    UsesUp (d₁ + d₂) (t₁ + t₂) s u := by
  obtain ⟨hdev₁, hfree₁⟩ := h₁
  obtain ⟨hdev₂, hfree₂⟩ := h₂
  refine ⟨?_, ?_⟩
  · rw [hdev₂, hdev₁]
    simp [Nat.add_assoc]
  · rw [hfree₂, hfree₁]
    simp [Nat.add_assoc]

/-- The free bytes above the message of a DEC are those of an OPEN: the permutation uses up no tail. -/
theorem bufByte_openContent_permuteContent_tail (d : Direction) (s : State) {k : Nat} (hk : k < 24) :
    bufByte (openContent (permuteContent d s)) ((openContent (permuteContent d s)).len.toNat + k) =
      Config.tailByte s.free.tails k := by
  rw [bufByte_openContent_tail _ k hk, permuteContent_free]

/-- Settles O48: an error uses up nothing, and each command without error what its transforms use up. -/
theorem drawsAndFreeValuesAreUsedOnce : Obligations.DrawsAndFreeValuesAreUsedOnce := by
  unfold Obligations.DrawsAndFreeValuesAreUsedOnce
  intro i s t h draws tails
  suffices hall : UsesUp draws tails s t ∧
      (tails = 1 → ∀ k, k < 24 → bufByte t (t.len.toNat + k) = Config.tailByte s.free.tails k) by
    obtain ⟨⟨hdev, hfree⟩, htail⟩ := hall
    exact ⟨hdev, hfree, htail⟩
  by_cases he : t.err = .noError
  · have hs := succeeds_of_exec_noError h he
    simp only [draws, tails, he, ne_eq, not_true_eq_false, if_false]
    clear h he draws tails
    cases i with
    | csum =>
      obtain ⟨_, rfl⟩ := hs
      exact ⟨⟨rfl, rfl⟩, nofun⟩
    | shuf =>
      obtain ⟨_, _, rfl⟩ := hs
      exact ⟨usesUp_finish (usesUp_permuteContent .shuffle s) false, nofun⟩
    | unshuf =>
      obtain ⟨_, _, rfl⟩ := hs
      exact ⟨usesUp_finish (usesUp_permuteContent .unshuffle s) false, nofun⟩
    | build =>
      obtain ⟨_, _, rfl⟩ := hs
      exact ⟨usesUp_finish (usesUp_buildContent s) false, nofun⟩
    | openEnv =>
      obtain ⟨_, _, _, rfl⟩ := hs
      exact ⟨usesUp_finishOpen (usesUp_openContent s), fun _ k => bufByte_openContent_tail s k⟩
    | enc m =>
      obtain ⟨_, _, rfl⟩ := hs
      exact ⟨usesUp_finish ((usesUp_buildContent s).trans (usesUp_permuteContent (encDirection m) _)) false, nofun⟩
    | dec m =>
      obtain ⟨_, _, _, rfl⟩ := hs
      exact ⟨usesUp_finishOpen ((usesUp_permuteContent (decDirection m) s).trans (usesUp_openContent _)),
        fun _ _ => bufByte_openContent_permuteContent_tail (decDirection m) s⟩
    | genkey =>
      obtain rfl : t = finish false (generateKey s) := hs
      exact ⟨usesUp_finish (usesUp_generateKey s) false, nofun⟩
  · simp only [draws, tails, he, ne_eq, not_false_eq_true, if_true]
    refine ⟨?_, nofun⟩
    obtain ⟨_, _, _, rfl⟩ | ⟨_, rfl⟩ | hs := exec_inv h
    · exact ⟨rfl, rfl⟩
    · exact ⟨rfl, rfl⟩
    · exact absurd (succeeds_noError hs) he

end Sys2Proof.Machine
end

section
/-!
PROOFS. What a command does not read: the bytes of KEY at or above KLEN (10_state.md R11) and those of BUF at or above LEN
(20_memory.md R48). Both are one simulation: two states that differ in memory bytes only, and hold the same key and the same content, are
taken by every command to states that differ in memory bytes only.
-/

namespace Sys2Proof.Machine

open Sys2Proof

/-! ### States that differ in their memories -/

/-- The state with other memories. -/
def State.withMemories (s : State) (key buf : Memory) : State := { s with key := key, buf := buf }

@[simp] theorem withMemories_key (s : State) (key buf : Memory) : (s.withMemories key buf).key = key := rfl
@[simp] theorem withMemories_klen (s : State) (key buf : Memory) : (s.withMemories key buf).klen = s.klen := rfl
@[simp] theorem withMemories_buf (s : State) (key buf : Memory) : (s.withMemories key buf).buf = buf := rfl
@[simp] theorem withMemories_len (s : State) (key buf : Memory) : (s.withMemories key buf).len = s.len := rfl
@[simp] theorem withMemories_acc (s : State) (key buf : Memory) : (s.withMemories key buf).acc = s.acc := rfl
@[simp] theorem withMemories_emb (s : State) (key buf : Memory) : (s.withMemories key buf).emb = s.emb := rfl
@[simp] theorem withMemories_mask (s : State) (key buf : Memory) : (s.withMemories key buf).mask = s.mask := rfl
@[simp] theorem withMemories_err (s : State) (key buf : Memory) : (s.withMemories key buf).err = s.err := rfl
@[simp] theorem withMemories_ok (s : State) (key buf : Memory) : (s.withMemories key buf).ok = s.ok := rfl
@[simp] theorem withMemories_params (s : State) (key buf : Memory) : (s.withMemories key buf).params = s.params := rfl
@[simp] theorem withMemories_host (s : State) (key buf : Memory) : (s.withMemories key buf).host = s.host := rfl
@[simp] theorem withMemories_dev (s : State) (key buf : Memory) : (s.withMemories key buf).dev = s.dev := rfl
@[simp] theorem withMemories_free (s : State) (key buf : Memory) : (s.withMemories key buf).free = s.free := rfl

/-- Related memories stay related when the same bytes are written to both. -/
def KeptByWrites (R : Memory → Memory → Prop) : Prop :=
  ∀ {m m' : Memory} (base : Nat) (bytes : List Byte), R m m' → R (memPutAll m base bytes) (memPutAll m' base bytes)

/-- The states differ in their memories only, and these are related. -/
def Alike (Rkey Rbuf : Memory → Memory → Prop) (s s' : State) : Prop :=
  ∃ key buf, s' = s.withMemories key buf ∧ Rkey s.key key ∧ Rbuf s.buf buf

/-- Besides, a command reads the same key and the same content in both. -/
structure ReadAlike (Rkey Rbuf : Memory → Memory → Prop) (s s' : State) : Prop where
  alike : Alike Rkey Rbuf s s'
  keyOf_eq : keyOf s' = keyOf s
  content_eq : content s' = content s

/-- Two outcomes with alike next states, or one and the same stop. -/
inductive OutcomesAlike (Rkey Rbuf : Memory → Memory → Prop) :
    Host.Outcome State Fault Refusal → Host.Outcome State Fault Refusal → Prop
  | next {t t' : State} (h : Alike Rkey Rbuf t t') : OutcomesAlike Rkey Rbuf (.next t) (.next t')
  | fault (r : Fault) : OutcomesAlike Rkey Rbuf (.fault r) (.fault r)

section
variable {Rkey Rbuf : Memory → Memory → Prop} {s s' : State}

/-! ### The ends of a command and the transforms -/

theorem alike_raise (h : Alike Rkey Rbuf s s') (e : ErrCode) : Alike Rkey Rbuf (raise e s) (raise e s') := by
  obtain ⟨key, buf, rfl, hR⟩ := h
  exact ⟨key, buf, rfl, hR⟩

theorem alike_note (h : Alike Rkey Rbuf s s') (ops : List PortOp) : Alike Rkey Rbuf (note ops s) (note ops s') := by
  obtain ⟨key, buf, rfl, hR⟩ := h
  exact ⟨key, buf, rfl, hR⟩

theorem alike_finish (h : Alike Rkey Rbuf s s') (ok : Bool) : Alike Rkey Rbuf (finish ok s) (finish ok s') := by
  obtain ⟨key, buf, rfl, hR⟩ := h
  exact ⟨key, buf, rfl, hR⟩

theorem alike_finishOpen (h : Alike Rkey Rbuf s s') : Alike Rkey Rbuf (finishOpen s) (finishOpen s') := by
  obtain ⟨key, buf, rfl, hR⟩ := h
  exact ⟨key, buf, rfl, hR⟩

theorem alike_checksum (h : ReadAlike Rkey Rbuf s s') :
    Alike Rkey Rbuf { s with acc := checksum s.params (content s) } { s' with acc := checksum s'.params (content s') } := by
  obtain ⟨⟨key, buf, rfl, hR⟩, _, hcontent⟩ := h
  rw [hcontent]
  exact ⟨key, buf, rfl, hR⟩

/-! What a transform writes depends on the key and the content alone. -/

section
variable {key buf : Memory} (hkeyOf : keyOf (s.withMemories key buf) = keyOf s)
  (hcontent : content (s.withMemories key buf) = content s)
include hkeyOf hcontent

theorem permuteContent_withMemories (d : Direction) :
    permuteContent d (s.withMemories key buf) = (permuteContent d s).withMemories key
      (memPutAll buf 0 (permuteBytes d (indexSeq s.params (keyOf s) (lenNat s)) (content s))) := by
  rw [permuteContent, hkeyOf, hcontent]
  rfl

theorem envelopeOf_withMemories : envelopeOf (s.withMemories key buf) = envelopeOf s := by
  rw [envelopeOf, hkeyOf, hcontent]
  rfl

theorem buildContent_withMemories :
    buildContent (s.withMemories key buf) = (buildContent s).withMemories key (memPutAll buf 0 (envelopeOf s)) := by
  have henv := envelopeOf_withMemories hkeyOf hcontent
  apply State.ext <;> simp [henv, hcontent, lenNat]

theorem openContent_withMemories :
    openContent (s.withMemories key buf) = (openContent s).withMemories key
      (memPutAll buf 0 (recoveredMessage (keyOf s) (content s) ++ unspecifiedTail s)) := by
  rw [openContent, hkeyOf, hcontent]
  rfl

end

theorem generateKey_withMemories (s : State) (key buf : Memory) :
    generateKey (s.withMemories key buf) =
      (generateKey s).withMemories (memPutAll key 0 (rngBytes genkeyLen s.dev)) buf := by
  apply State.ext <;> simp

section
variable (hput : KeptByWrites Rbuf)
include hput

theorem alike_permuteContent (h : ReadAlike Rkey Rbuf s s') (d : Direction) :
    Alike Rkey Rbuf (permuteContent d s) (permuteContent d s') := by
  obtain ⟨⟨key, buf, rfl, hkey, hbuf⟩, hkeyOf, hcontent⟩ := h
  refine ⟨key, _, permuteContent_withMemories hkeyOf hcontent d, ?_, ?_⟩
  · rwa [permuteContent_key]
  · rw [permuteContent_buf]
    exact hput 0 _ hbuf

theorem alike_buildContent (h : ReadAlike Rkey Rbuf s s') : Alike Rkey Rbuf (buildContent s) (buildContent s') := by
  obtain ⟨⟨key, buf, rfl, hkey, hbuf⟩, hkeyOf, hcontent⟩ := h
  refine ⟨key, _, buildContent_withMemories hkeyOf hcontent, ?_, ?_⟩
  · rwa [buildContent_key]
  · rw [buildContent_buf]
    exact hput 0 _ hbuf

theorem alike_openContent (h : ReadAlike Rkey Rbuf s s') : Alike Rkey Rbuf (openContent s) (openContent s') := by
  obtain ⟨⟨key, buf, rfl, hkey, hbuf⟩, hkeyOf, hcontent⟩ := h
  refine ⟨key, _, openContent_withMemories hkeyOf hcontent, ?_, ?_⟩
  · rwa [openContent_key]
  · rw [openContent_buf]
    exact hput 0 _ hbuf

/-- After the transform that comes first in DEC the same key and content are read again. -/
theorem readAlike_permuteContent (h : ReadAlike Rkey Rbuf s s') (d : Direction) :
    ReadAlike Rkey Rbuf (permuteContent d s) (permuteContent d s') := by
  refine ⟨alike_permuteContent hput h d, ?_, ?_⟩
  · rw [keyOf_permuteContent, keyOf_permuteContent, h.keyOf_eq]
  · obtain ⟨⟨key, buf, rfl, _⟩, hkeyOf, hcontent⟩ := h
    rw [content_permuteContent, content_permuteContent, hkeyOf, hcontent]
    rfl

/-- After the transform that comes first in ENC the same key and content are read again. -/
theorem readAlike_buildContent (h : ReadAlike Rkey Rbuf s s') (hfits : EnvelopeFits s) :
    ReadAlike Rkey Rbuf (buildContent s) (buildContent s') := by
  refine ⟨alike_buildContent hput h, ?_, ?_⟩
  · rw [keyOf_buildContent, keyOf_buildContent, h.keyOf_eq]
  · obtain ⟨⟨key, buf, rfl, _⟩, hkeyOf, hcontent⟩ := h
    rw [content_buildContent hfits, content_buildContent (s := s.withMemories key buf) hfits,
      envelopeOf_withMemories hkeyOf hcontent]

end

theorem alike_generateKey (hput : KeptByWrites Rkey) (h : Alike Rkey Rbuf s s') :
    Alike Rkey Rbuf (generateKey s) (generateKey s') := by
  obtain ⟨key, buf, rfl, hkey, hbuf⟩ := h
  refine ⟨_, buf, generateKey_withMemories s key buf, ?_, ?_⟩
  · rw [generateKey_key]
    exact hput 0 _ hkey
  · rwa [generateKey_buf]

/-! ### The commands -/

/-- No check of a command reads a memory. -/
theorem checks_eq_of_alike (h : Alike Rkey Rbuf s s') :
    contentError s' = contentError s ∧ buildError s' = buildError s ∧ openError s' = openError s ∧ keySizeBad s' = keySizeBad s ∧
      s'.dev = s.dev := by
  obtain ⟨_, _, rfl, _⟩ := h
  exact ⟨rfl, rfl, rfl, rfl, rfl⟩

theorem envelopeFits_of_buildError (h : buildError s = none) : EnvelopeFits s := by
  by_contra hover
  have hsome := (buildError_isSome_iff s).2 fun hok => hover hok.2
  rw [h] at hsome
  cases hsome

theorem execCsum_alike (h : ReadAlike Rkey Rbuf s s') : OutcomesAlike Rkey Rbuf (execCsum s) (execCsum s') := by
  obtain ⟨herr, _⟩ := checks_eq_of_alike h.alike
  rw [execCsum, execCsum, herr]
  cases contentError s with
  | some e => exact .next (alike_raise h.alike e)
  | none => exact .next (alike_finish (alike_checksum h) false)

section
variable (hput : KeptByWrites Rbuf)
include hput

theorem execPermute_alike (h : ReadAlike Rkey Rbuf s s') (d : Direction) :
    OutcomesAlike Rkey Rbuf (execPermute d s) (execPermute d s') := by
  obtain ⟨herr, _, _, hkey, hdev⟩ := checks_eq_of_alike h.alike
  rw [execPermute, execPermute, herr, hkey, hdev]
  cases contentError s with
  | some e => exact .next (alike_raise h.alike e)
  | none =>
    dsimp only
    split_ifs
    · exact .fault _
    · exact .next (alike_raise (alike_note h.alike _) _)
    · exact .next (alike_finish (alike_permuteContent hput h d) false)

theorem execBuild_alike (h : ReadAlike Rkey Rbuf s s') : OutcomesAlike Rkey Rbuf (execBuild s) (execBuild s') := by
  obtain ⟨_, herr, _, _, hdev⟩ := checks_eq_of_alike h.alike
  rw [execBuild, execBuild, herr, hdev]
  cases buildError s with
  | some e => exact .next (alike_raise h.alike e)
  | none =>
    dsimp only
    split_ifs
    · exact .fault _
    · exact .next (alike_finish (alike_buildContent hput h) false)

theorem execEnc_alike (h : ReadAlike Rkey Rbuf s s') (m : Mode) : OutcomesAlike Rkey Rbuf (execEnc m s) (execEnc m s') := by
  obtain ⟨_, herr, _, _, hdev⟩ := checks_eq_of_alike h.alike
  rw [execEnc, execEnc, herr, hdev]
  cases hs : buildError s with
  | some e => exact .next (alike_raise h.alike e)
  | none =>
    have hfits := envelopeFits_of_buildError hs
    dsimp only
    split_ifs
    · exact .fault _
    · exact .fault _
    · exact .next (alike_finish (alike_permuteContent hput (readAlike_buildContent hput h hfits) (encDirection m)) false)

theorem execOpen_alike (h : ReadAlike Rkey Rbuf s s') : OutcomesAlike Rkey Rbuf (execOpen s) (execOpen s') := by
  obtain ⟨_, _, herr, _⟩ := checks_eq_of_alike h.alike
  rw [execOpen, execOpen, herr]
  cases openError s with
  | some e => exact .next (alike_raise h.alike e)
  | none => exact .next (alike_finishOpen (alike_openContent hput h))

theorem execDec_alike (h : ReadAlike Rkey Rbuf s s') (m : Mode) : OutcomesAlike Rkey Rbuf (execDec m s) (execDec m s') := by
  obtain ⟨_, _, herr, _, hdev⟩ := checks_eq_of_alike h.alike
  rw [execDec, execDec, herr, hdev]
  cases openError s with
  | some e => exact .next (alike_raise h.alike e)
  | none =>
    dsimp only
    split_ifs
    · exact .fault _
    · exact .next (alike_finishOpen (alike_openContent hput (readAlike_permuteContent hput h (decDirection m))))

end

theorem execGenkey_alike (hput : KeptByWrites Rkey) (h : Alike Rkey Rbuf s s') :
    OutcomesAlike Rkey Rbuf (execGenkey s) (execGenkey s') := by
  obtain ⟨_, _, _, _, hdev⟩ := checks_eq_of_alike h
  rw [execGenkey, execGenkey, hdev]
  split_ifs
  · exact .fault _
  · exact .next (alike_finish (alike_generateKey hput h) false)

theorem exec_alike (hkey : KeptByWrites Rkey) (hbuf : KeptByWrites Rbuf) (h : ReadAlike Rkey Rbuf s s') (i : Instr) :
    OutcomesAlike Rkey Rbuf (exec i s) (exec i s') := by
  cases i with
  | csum => exact execCsum_alike h
  | shuf => exact execPermute_alike hbuf h .shuffle
  | unshuf => exact execPermute_alike hbuf h .unshuffle
  | build => exact execBuild_alike hbuf h
  | openEnv => exact execOpen_alike hbuf h
  | enc m => exact execEnc_alike hbuf h m
  | dec m => exact execDec_alike hbuf h m
  | genkey => exact execGenkey_alike hkey h.alike

/-- The simulation, for a command that ends. -/
theorem exec_next_alike (hkey : KeptByWrites Rkey) (hbuf : KeptByWrites Rbuf) (h : ReadAlike Rkey Rbuf s s') {i : Instr} {t : State}
    (hexec : exec i s = .next t) :
    ∃ key buf, exec i s' = .next (t.withMemories key buf) ∧ Rkey t.key key ∧ Rbuf t.buf buf := by
  have hall := exec_alike hkey hbuf h i
  rw [hexec] at hall
  generalize ho : exec i s' = o at hall
  obtain ⟨key, buf, rfl, hR⟩ := hall
  exact ⟨key, buf, rfl, hR⟩

end

/-! ### One byte changed -/

/-- The memories list the same byte, or none, at every address but `a`. -/
def AgreeOff (a : Nat) (m m' : Memory) : Prop := ∀ b, b ≠ a → memFind m' b = memFind m b

theorem keptByWrites_eq : KeptByWrites Eq := by
  rintro m _ base bytes rfl
  rfl

theorem keptByWrites_agreeOff (a : Nat) : KeptByWrites (AgreeOff a) := by
  intro m m' base bytes h b hb
  rw [memFind_memPutAll, memFind_memPutAll, h b hb]

theorem agreeOff_memPut (m : Memory) (a : Nat) (v : Byte) : AgreeOff a m (memPut m a v) := by
  intro b hb
  rw [memFind_memPut, if_neg hb.symm]

theorem keyByte_withMemories_of_agreeOff {s : State} {key buf : Memory} {a b : Nat} (h : AgreeOff a s.key key) (hb : b ≠ a) :
    keyByte (s.withMemories key buf) b = keyByte s b := by
  rw [keyByte, withMemories_key, withMemories_free, h b hb, keyByte]

theorem bufByte_withMemories_of_agreeOff {s : State} {key buf : Memory} {a b : Nat} (h : AgreeOff a s.buf buf) (hb : b ≠ a) :
    bufByte (s.withMemories key buf) b = bufByte s b := by
  rw [bufByte, withMemories_buf, withMemories_free, h b hb, bufByte]

/-- A byte of KEY at or above KLEN is no byte of the key (R11). -/
theorem readAlike_of_unused_key {s : State} {a : Nat} (ha : s.klen.toNat ≤ a) (v : Byte) :
    ReadAlike (AgreeOff a) Eq s (s.withMemories (memPut s.key a v) s.buf) := by
  have hoff := agreeOff_memPut s.key a v
  refine ⟨⟨_, _, rfl, hoff, rfl⟩, keyOf_congr rfl fun b hb => ?_, content_same rfl rfl rfl⟩
  exact keyByte_withMemories_of_agreeOff hoff (by omega)

/-- A byte of BUF at or above LEN is no byte of the content (R48). -/
theorem readAlike_of_stale_buf {s : State} {a : Nat} (ha : s.len.toNat ≤ a) (v : Byte) :
    ReadAlike Eq (AgreeOff a) s (s.withMemories s.key (memPut s.buf a v)) := by
  have hoff := agreeOff_memPut s.buf a v
  refine ⟨⟨_, _, rfl, rfl, hoff⟩, keyOf_same rfl rfl rfl, content_congr rfl fun b hb => ?_⟩
  exact bufByte_withMemories_of_agreeOff hoff (by omega)

/-- Settles O51: the simulation, with KEY's bytes related off the one changed. -/
theorem unusedKeyBytesAreNeverRead : Obligations.UnusedKeyBytesAreNeverRead := by
  unfold Obligations.UnusedKeyBytesAreNeverRead
  intro i s t a v ha hexec
  obtain ⟨key, buf, hnext, hoff, rfl⟩ :=
    exec_next_alike (keptByWrites_agreeOff a) keptByWrites_eq (readAlike_of_unused_key ha v) hexec
  exact ⟨key, hnext, fun b => keyByte_withMemories_of_agreeOff hoff⟩

/-- Settles O52: the simulation, with BUF's bytes related off the one changed. -/
theorem staleBufferBytesAreNeverRead : Obligations.StaleBufferBytesAreNeverRead := by
  unfold Obligations.StaleBufferBytesAreNeverRead
  intro i s t a v ha hexec
  obtain ⟨key, buf, hnext, rfl, hoff⟩ :=
    exec_next_alike keptByWrites_eq (keptByWrites_agreeOff a) (readAlike_of_stale_buf ha v) hexec
  exact ⟨buf, hnext, fun b => bufByte_withMemories_of_agreeOff hoff⟩

end Sys2Proof.Machine
end
